-- ==== Sys2Proof/Word.lean ====
section
/-! DEFINITION. The words of the block: bit vectors only for what the spec treats as bits (00_scope.md R10, R14). -/

namespace Sys2Proof

/-- A 16-bit word: a command word (R70), an accumulator, a rate or a period register (R20). Bit 0 is the least
significant bit (R14). -/
abbrev Word := BitVec 16

/-- A phase in slivers, 0..255: the address of the sine ROM (R50, R51). -/
abbrev Phase := BitVec 8

/-- The 41-bit response word of LOOKUP: FOUND, SYMBOL, LOW_HZ, HIGH_HZ (R76). -/
abbrev RespWord := BitVec 41

end Sys2Proof
end

