-- ==== Sys2Proof/Machine/Tables.lean ====
section
/-! DEFINITION. The two read-only tables and the figures derived from a build's parameters (20_memory.md R51 to R57,
00_scope.md R10, R12). They stand here as functions of the parameters. Config.lean makes a configuration of them. -/

namespace Sys2Proof.Machine

/-- What the tone ROM fixes of a row whatever the clock: the symbol's ASCII code and the two frequencies in Hz (R54). -/
structure ToneKey where
  symbol : BitVec 8
  lowHz : Word
  highHz : Word
deriving DecidableEq, Repr

/-- The 16 rows of the tone ROM, `1` to `9`, `0`, `*`, `#`, `A` to `D`, on the standard keypad (R55). -/
def toneKeys : Vector ToneKey 16 :=
  #v[
    ⟨0x31, 697, 1209⟩,
    ⟨0x32, 697, 1336⟩,
    ⟨0x33, 697, 1477⟩,
    ⟨0x34, 770, 1209⟩,
    ⟨0x35, 770, 1336⟩,
    ⟨0x36, 770, 1477⟩,
    ⟨0x37, 852, 1209⟩,
    ⟨0x38, 852, 1336⟩,
    ⟨0x39, 852, 1477⟩,
    ⟨0x30, 941, 1336⟩,
    ⟨0x2A, 941, 1209⟩,
    ⟨0x23, 941, 1477⟩,
    ⟨0x41, 697, 1633⟩,
    ⟨0x42, 770, 1633⟩,
    ⟨0x43, 852, 1633⟩,
    ⟨0x44, 941, 1633⟩]

/-- The key of row `i` (R54). The address is 0..15 by its type: an index of 16 or more never reaches the ROM. -/
def toneKey (i : Fin 16) : ToneKey := toneKeys[i]

/-- `RATE(f) = floor((2097152 * f + F_CLK) / (2 * F_CLK))`: the nearest integer to `16 * f * 65536 / F_CLK`, halves up,
in unbounded integers (R56). -/
def rateOf (fClk f : Nat) : Nat := (2097152 * f + fClk) / (2 * fClk)

/-- `RATE_MAX`, the largest rate of the tone table (R12 (e)). -/
def rateMaxOf (fClk : Nat) : Nat :=
  (toneKeys.toList.map fun k => max (rateOf fClk k.lowHz.toNat) (rateOf fClk k.highHz.toNat)).foldl max 0

/-- `NOMINAL = floor(F_CLK / F_CARRIER)` (R10). -/
def nominalOf (fClk fCarrier : Nat) : Nat := fClk / fCarrier

/-- `D_MAX = (3 * SINE_AMP) div SHALLOW`, SHALLOW being 32 (R10, R100). -/
def dMaxOf (sineAmp : Nat) : Nat := 3 * sineAmp / 32

/-- The first half of the reference sine table, phases 0 to 127 (R52). -/
def sineRefFirstHalf : List Int :=
  [0, 3, 6, 9, 12, 16, 19, 22, 25, 28, 31, 34, 37, 40, 43, 46] ++
  [49, 51, 54, 57, 60, 63, 65, 68, 71, 73, 76, 78, 81, 83, 85, 88] ++
  [90, 92, 94, 96, 98, 100, 102, 104, 106, 107, 109, 111, 112, 113, 115, 116] ++
  [117, 118, 120, 121, 122, 122, 123, 124, 125, 125, 126, 126, 126, 127, 127, 127] ++
  [127, 127, 127, 127, 126, 126, 126, 125, 125, 124, 123, 122, 122, 121, 120, 118] ++
  [117, 116, 115, 113, 112, 111, 109, 107, 106, 104, 102, 100, 98, 96, 94, 92] ++
  [90, 88, 85, 83, 81, 78, 76, 73, 71, 68, 65, 63, 60, 57, 54, 51] ++
  [49, 46, 43, 40, 37, 34, 31, 28, 25, 22, 19, 16, 12, 9, 6, 3]

/-- The second half of the reference sine table, phases 128 to 255 (R52). -/
def sineRefSecondHalf : List Int :=
  [0, -3, -6, -9, -12, -16, -19, -22, -25, -28, -31, -34, -37, -40, -43, -46] ++
  [-49, -51, -54, -57, -60, -63, -65, -68, -71, -73, -76, -78, -81, -83, -85, -88] ++
  [-90, -92, -94, -96, -98, -100, -102, -104, -106, -107, -109, -111, -112, -113, -115, -116] ++
  [-117, -118, -120, -121, -122, -122, -123, -124, -125, -125, -126, -126, -126, -127, -127, -127] ++
  [-127, -127, -127, -127, -126, -126, -126, -125, -125, -124, -123, -122, -122, -121, -120, -118] ++
  [-117, -116, -115, -113, -112, -111, -109, -107, -106, -104, -102, -100, -98, -96, -94, -92] ++
  [-90, -88, -85, -83, -81, -78, -76, -73, -71, -68, -65, -63, -60, -57, -54, -51] ++
  [-49, -46, -43, -40, -37, -34, -31, -28, -25, -22, -19, -16, -12, -9, -6, -3]

/-- The 256 entries of `SINE_REF`, as R52 lists them. -/
def sineRefTable : List Int := sineRefFirstHalf ++ sineRefSecondHalf

/-- `SINE_REF[p]` (R52). -/
def sineRef (p : Phase) : Int := sineRefTable.getD p.toNat 0

end Sys2Proof.Machine
end

