-- ==== Sys2Proof/Config.lean ====
section
/-! DEFINITION. The configuration: what the build fixes and the run never changes (00_scope.md R10 to R12, 10_state.md
R38). It is a parameter of the step relation, not a part of State. -/

namespace Sys2Proof

open Sys2Proof.Machine

/-- The OPEN parameters of R10, before any check. -/
structure Params where
  /-- `F_CLK`, the clock rate in Hz. One tick is `1 / F_CLK` s. -/
  fClk : Nat
  /-- `F_CARRIER`, the nominal carrier frequency in Hz. -/
  fCarrier : Nat
  /-- `SINE_AMP`, the bound on the magnitude of a sine sample. -/
  sineAmp : Nat
  /-- `SINE`, the sine ROM: one signed integer for each of the 256 phases (R51). -/
  sine : Phase → Int
  /-- `ENGINE_TICKS`, the worst-case ticks of an implementation's CYCLE. No rule of the machine reads it (R174). -/
  engineTicks : Nat

/-- `NOMINAL`, the nominal carrier period in ticks (R10). -/
def Params.nominal (p : Params) : Nat := nominalOf p.fClk p.fCarrier

/-- `D_MAX`, the largest `|PEND - NOMINAL|` (R10). -/
def Params.dMax (p : Params) : Nat := dMaxOf p.sineAmp

/-- `RATE(f)` at this clock (R56). -/
def Params.rate (p : Params) (f : Word) : Nat := rateOf p.fClk f.toNat

/-- `RATE_MAX` at this clock (R12 (e)). -/
def Params.rateMax (p : Params) : Nat := rateMaxOf p.fClk

/-- `VALID` (R12), its conditions (a) to (f) in order. (b) says `NOMINAL - D_MAX >= 2` without a subtraction. -/
abbrev Params.Valid (p : Params) : Prop :=
  (1 ≤ p.fClk ∧ 1 ≤ p.fCarrier) ∧
  p.dMax + 2 ≤ p.nominal ∧
  p.nominal + p.dMax ≤ 65535 ∧
  (∀ i : Fin 16, p.rate (toneKey i).lowHz < 65536 ∧ p.rate (toneKey i).highHz < 65536) ∧
  (p.nominal + p.dMax) * p.rateMax < 65536 ∧
  ∀ x : Phase, (p.sine x).natAbs ≤ p.sineAmp

/-- A configuration is a set of parameters that is valid. The rules are stated for valid configurations only, so no
other can be built (R12). `Machine.boot` refuses the rest by name. -/
structure Config extends Params where
  valid : toParams.Valid

/-- One ToneDefinition, a row of the tone ROM (R54). -/
structure Tone where
  symbol : BitVec 8
  lowHz : Word
  highHz : Word
  rateLo : Word
  rateHi : Word
deriving DecidableEq, Repr

/-- `TONE[i]`: the key of R55 with its two rates, `RATE(f) mod 65536` (R56). -/
def Config.tone (c : Config) (i : Fin 16) : Tone where
  symbol := (toneKey i).symbol
  lowHz := (toneKey i).lowHz
  highHz := (toneKey i).highHz
  rateLo := BitVec.ofNat 16 (c.rate (toneKey i).lowHz)
  rateHi := BitVec.ofNat 16 (c.rate (toneKey i).highHz)

/-- `NOMINAL` as a period register holds it. -/
def Config.nominalWord (c : Config) : Word := BitVec.ofNat 16 c.nominal

/-- The static condition of R165 under which an implementation's engine meets its deadline, `mask` being the longest
time in ticks that the host's critical section holds the event off. The machine itself never reads it. -/
def Config.MeetsDeadline (c : Config) (mask : Nat) : Prop :=
  c.engineTicks + mask < (c.nominal - c.dMax) / 2

/-- The reference parameters of R11: 8 MHz, 40 kHz, amplitude 127 and `SINE_REF`. `ENGINE_TICKS` has no reference
value in R11. It is 0 here, and nothing reads it (DESIGN CHOICE, log entry 11). -/
def Params.ref : Params where
  fClk := 8000000
  fCarrier := 40000
  sineAmp := 127
  sine := sineRef
  engineTicks := 0

/-- `REF` is valid (R12). -/
theorem Params.ref_valid : Params.ref.Valid := by decide

/-- The reference configuration `REF` (R11). The test vectors of 95_test_vectors.md are at it. -/
def Config.ref : Config := { Params.ref with valid := Params.ref_valid }

/-- The configuration that the build supplies, given that there is one. It has no body: nothing in Lean can evaluate
it, and what is proved of it is proved of every valid configuration (log entry 1). -/
opaque Config.supplied [Inhabited Config] : Config

/-- The configuration of this machine: open but for its being valid (R10, R38, log entry 1). -/
def Config.machine : Config := @Config.supplied ⟨Config.ref⟩

end Sys2Proof
end

