-- ==== Sys2Proof/Machine/Regs.lean ====
section
/-! DEFINITION. The nine registers of the block (10_state.md R20 to R28) and their reset values (R37). -/

namespace Sys2Proof.Machine

/-- `CTRL`, the control register: four 1-bit fields. It has no address and no command reads or writes it as a word
(R28). -/
structure Ctrl where
  /-- Bit 0: the timer's clock source runs, undivided. -/
  run : Bool
  /-- Bit 1: the per-cycle interrupt is armed. -/
  ie : Bool
  /-- Bit 2: the output is enabled. -/
  oe : Bool
  /-- Bit 3: the mode (constant 50 % duty, variable period) is configured. -/
  cfg : Bool
deriving DecidableEq, Repr

/-- `CTRL` as the spec writes it, CFG being bit 3 and RUN bit 0 (R28). -/
def Ctrl.bits (k : Ctrl) : BitVec 4 :=
  BitVec.ofBool k.cfg ++ BitVec.ofBool k.oe ++ BitVec.ofBool k.ie ++ BitVec.ofBool k.run

/-- The block's registers (R20). -/
structure Regs where
  /-- `ACC_LO`, the low tone's phase accumulator (R21). -/
  accLo : Word
  /-- `ACC_HI`, the high tone's phase accumulator (R22). -/
  accHi : Word
  /-- `RATE_LO`, the low half of the ModulationState (R23). -/
  rateLo : Word
  /-- `RATE_HI`, the high half of the ModulationState (R23). -/
  rateHi : Word
  /-- `TOP`, the live carrier period in ticks (R24). -/
  top : Word
  /-- `CMP`, the 50 %-duty point of the live period (R25). -/
  cmp : Word
  /-- `PEND`, the staged next period (R26). -/
  pend : Word
  /-- `CNT`, the position inside the carrier cycle (R27). -/
  cnt : Word
  /-- `CTRL` (R28). -/
  ctrl : Ctrl
deriving DecidableEq, Repr

/-- `TOP <- period` and `CMP <- period div 2`: the two are only written together (R25, R166). -/
def Regs.setPeriod (r : Regs) (period : Word) : Regs :=
  { r with top := period, cmp := BitVec.ofNat 16 (period.toNat / 2) }

/-- The reset values of R37. -/
def Regs.resetOn (c : Config) : Regs where
  accLo := 0
  accHi := 0
  rateLo := 0
  rateHi := 0
  top := c.nominalWord
  cmp := BitVec.ofNat 16 (c.nominal / 2)
  pend := c.nominalWord
  cnt := 0
  ctrl := { run := false, ie := false, oe := false, cfg := false }

end Sys2Proof.Machine
end

