-- ==== Sys2Proof/Machine/State.lean ====
section
/-! DEFINITION. The machine's state, its inputs, and the ways a step stops (10_state.md R20, 00_scope.md R8, R9). -/

namespace Sys2Proof.Machine

/-- One event of a run (R8), with the reset input (R160). -/
inductive Event where
  /-- One tick of `clk`. -/
  | tick
  /-- The host presents command word `w`: `cmd_valid = 1`, `cmd_word = w` (R70). -/
  | cmd (w : Word)
  /-- The reset input goes to a level. Asserting it is the reset event of R160. -/
  | rst (asserted : Bool)
deriving DecidableEq, Repr

/-- The whole state: the nine registers and the ports a step reads or answers through. -/
structure State where
  /-- The nine registers, which are the block's whole architectural state (R20). -/
  regs : Regs
  /-- The level of the reset input: true while it is asserted (R9, R160, log entry 5). -/
  rst : Bool
  /-- The events still to come, the next one first (R8, R117). The model's own field (log entry 2). -/
  events : List Event
  /-- The response port after the last event: `some w` is `resp_valid = 1` with `resp_word = w`, `none` is
  `resp_valid = 0` with `resp_word = 0` (R76, R77, log entry 4). -/
  resp : Option RespWord
deriving DecidableEq, Repr

/-- The state after a reset that has been released, at a configuration (R37, R160, R161). -/
def State.resetOn (c : Config) : State where
  regs := Regs.resetOn c
  rst := false
  events := []
  resp := none

/-- The machine right after reset (R37, R161). -/
def State.reset : State := State.resetOn Config.machine

/-- Why the machine stops with a fault. There is no such reason: the block raises no exception of any kind (R140), so
the type has no constructor, and no step can fault (log entry 17). -/
inductive Fault where
deriving DecidableEq, Repr

/-- The events to which the spec gives no meaning (R15 `refuse`, R141). Each is an outcome of the model and not of the
hardware, and each errs toward unprovable. -/
inductive Refusal where
  /-- Raised by exec for a command that has no meaning yet. Safe: nothing is claimed of the run. No arm raises it. -/
  | notModelled (mnemonic : String)
  /-- `IllegalCommand`, raised by a command word that matches no row of the opcode map (R75). Safe: the hardware
  changes no state there, and the model claims nothing. -/
  | illegalCommand
  /-- `StartWhileRunning`, raised by START while the carrier is ON (R122). Safe: the source calls it undefined. -/
  | startWhileRunning
  /-- Raised by `boot` for parameters that are not valid (R12, R141). Safe: the rules say nothing of them. -/
  | invalidConfiguration
deriving DecidableEq, Repr

end Sys2Proof.Machine
end

