-- ==== Sys2Proof/Machine/Ops.lean ====
section
/-! DEFINITION. The shared operations on State: how an event ends, with or without a response, and the reset event. The
block takes no exception and returns from none (60_exceptions.md R140, R148, R149), so neither has an operation here.
The one interrupt-like event, the period boundary, is in Machine/Timer.lean (R142). -/

namespace Sys2Proof.Machine

/-- The outcome of one step of this machine. -/
abbrev StepOutcome := Host.Outcome State Fault Refusal

/-- The end of an event that leaves the registers at `r` and drives no response: `resp_valid = 0`, `resp_word = 0`
(R77). -/
def State.finish (s : State) (r : Regs) : State := { s with regs := r, resp := none }

/-- The end of a LOOKUP: `resp_valid = 1` with `resp_word = w`, and no register changes (R76, R133). -/
def State.answer (s : State) (w : RespWord) : State := { s with resp := some w }

/-- The reset input goes to a level. Asserting it sets every register to its reset value and does nothing else;
releasing it changes no register (R160). -/
def State.driveReset (c : Config) (s : State) (asserted : Bool) : State :=
  { s with regs := if asserted then Regs.resetOn c else s.regs, rst := asserted, resp := none }

end Sys2Proof.Machine
end

