-- ==== Sys2Proof/Machine/Carrier.lean ====
section
/-! DEFINITION. The carrier timer controller's commands: NOP, START, STOP (42_carrier_ctl.md R120 to R128). -/

namespace Sys2Proof.Machine

/-- What START writes, in the spec's order: the mode, the initial period with its duty point, the counter, and the
three enables. It writes nothing else (R121, R123). -/
def Regs.start (c : Config) (r : Regs) : Regs :=
  { r.setPeriod c.nominalWord with
    cnt := 0
    ctrl := { run := true, ie := true, oe := true, cfg := true } }

/-- What STOP writes: `CTRL.RUN <- 0` and nothing else, whether the carrier is ON or OFF (R124, R125). -/
def Regs.stop (r : Regs) : Regs := { r with ctrl := { r.ctrl with run := false } }

/-- START at a configuration: it starts an OFF carrier (R121) and has no meaning while the carrier is ON (R122). -/
def startOn (c : Config) (s : State) : StepOutcome :=
  if s.regs.ctrl.run then .refused .startWhileRunning else .next (s.finish (s.regs.start c))

/-- NOP (R120). -/
def execNop (s : State) : StepOutcome := .next (s.finish s.regs)

/-- START (R121, R122). -/
def execStart (s : State) : StepOutcome := startOn Config.machine s

/-- STOP (R124). -/
def execStop (s : State) : StepOutcome := .next (s.finish s.regs.stop)

end Sys2Proof.Machine
end

