-- ==== Sys2Proof/Machine/Operands.lean ====
section
/-! DEFINITION. What commands and the engine read besides registers: the index operand, the tone ROM, the sine ROM, and
the response word (20_memory.md R50, R60, 30_encoding.md R72, R76). -/

namespace Sys2Proof.Machine

/-- The row an index names, or none for an index outside the table's bounds 0..15 (R61, R130, R133). -/
def toneRow (c : Config) (index : Nat) : Option Tone :=
  if h : index < 16 then some (c.tone ⟨index, h⟩) else none

/-- The rate pair an index selects: the row's two rates, or (0, 0) for an index of 16 or more (R130). -/
def ratePair (c : Config) (index : Nat) : Word × Word :=
  match toneRow c index with
  | some t => (t.rateLo, t.rateHi)
  | none => (0, 0)

/-- The response word of a row: `{FOUND = 1, SYMBOL, LOW_HZ, HIGH_HZ}`, 1 + 8 + 16 + 16 bits (R76). -/
def foundWord (t : Tone) : RespWord := 1#1 ++ t.symbol ++ t.lowHz ++ t.highHz

/-- The response word of a LOOKUP: the row's, or the empty result, all zero (R77, R133). -/
def lookupWord (c : Config) (index : Nat) : RespWord :=
  match toneRow c index with
  | some t => foundWord t
  | none => 0

/-- `FOUND`, bit 40 of a response word: the only test that tells an entry from the empty result (R76, R77). -/
def respFound (w : RespWord) : Bool := w.getLsbD 40

/-- `SYMBOL`, bits 39:32 of a response word (R76). -/
def respSymbol (w : RespWord) : BitVec 8 := w.extractLsb' 32 8

/-- `LOW_HZ`, bits 31:16 of a response word (R76). -/
def respLowHz (w : RespWord) : Word := w.extractLsb' 16 16

/-- `HIGH_HZ`, bits 15:0 of a response word (R76). -/
def respHighHz (w : RespWord) : Word := w.extractLsb' 0 16

/-- The phase of an accumulator in slivers: its top 8 bits, `ACC[15:8]` (R21, R93). -/
def phaseOf (acc : Word) : Phase := acc.extractLsb' 8 8

/-- The sample at an accumulator: `SINE[ACC[15:8]]` (R93). -/
def sampleAt (c : Config) (acc : Word) : Int := c.sine (phaseOf acc)

/-- `resp_valid` (R76, R77). -/
def State.respValid (s : State) : Bool := s.resp.isSome

/-- `resp_word`, 0 when no response is driven (R76, R77). -/
def State.respWord (s : State) : RespWord := s.resp.getD 0

end Sys2Proof.Machine
end

