-- ==== Sys2Proof/Machine/Selection.lean ====
section
/-! DEFINITION. The tone selection commands: SELECT, LOOKUP (43_selection.md R130 to R136). -/

namespace Sys2Proof.Machine

/-- What SELECT writes: both rates, in one event, and nothing else (R130, R131). -/
def Regs.select (r : Regs) (pair : Word × Word) : Regs := { r with rateLo := pair.1, rateHi := pair.2 }

/-- SELECT at a configuration (R130). -/
def selectOn (c : Config) (index : Nat) (s : State) : StepOutcome :=
  .next (s.finish (s.regs.select (ratePair c index)))

/-- LOOKUP at a configuration (R133): it answers and changes no register (R134). -/
def lookupOn (c : Config) (index : Nat) (s : State) : StepOutcome := .next (s.answer (lookupWord c index))

/-- SELECT (R130). -/
def execSelect (index : Nat) (s : State) : StepOutcome := selectOn Config.machine index s

/-- LOOKUP (R133). -/
def execLookup (index : Nat) (s : State) : StepOutcome := lookupOn Config.machine index s

end Sys2Proof.Machine
end

