-- ==== Sys2Proof/Syntax.lean ====
section
/-! DEFINITION. The block's instructions: the five host commands of the opcode table (30_encoding.md R71, R82). -/

namespace Sys2Proof

/-- One host command. TICK and CYCLE are events without an encoding (R78): they are no commands and stand in
Machine/Timer.lean and Machine/Engine.lean. The operand of SELECT and LOOKUP is the unsigned integer `index` (R72). -/
inductive Instr where
  /-- The spec's idle command (R120). -/
  | nop
  /-- `start()`: begin carrier output (R121). -/
  | start
  /-- `stop()`: end carrier output, preserving the configuration (R124). -/
  | stop
  /-- `selectPair(index)`: modulate tone `index`, or silence (R130). -/
  | select (index : Nat)
  /-- `lookup(index)`: query the tone table (R133). -/
  | lookup (index : Nat)
deriving DecidableEq, Repr

end Sys2Proof
end

