-- ==== Sys2Proof/WellFormed.lean ====
section
/-! DEFINITION. Which commands the host can present: the operand fits its 8-bit field (30_encoding.md R72). -/

namespace Sys2Proof

/-- The index operand is an unsigned integer 0..255 (R72). -/
abbrev IndexFits (index : Nat) : Prop := index < 256

/-- A command that has an encoding: SELECT and LOOKUP carry an index of 0..255, the other three carry nothing (R71,
R72). -/
def Instr.wellFormed : Instr → Bool
  | .nop => true
  | .start => true
  | .stop => true
  | .select index => decide (IndexFits index)
  | .lookup index => decide (IndexFits index)

/-- The proposition that a command is well formed. -/
abbrev Instr.WellFormed (i : Instr) : Prop := i.wellFormed = true

end Sys2Proof
end

