-- ==== Sys2Proof/Decode.lean ====
section
/-! DEFINITION. The command encoding, format C (30_encoding.md R70 to R75): the opcode table, the decoder, the encoder. -/

namespace Sys2Proof

/-- The field OP, bits 15:12 (R70). -/
def opField (w : Word) : BitVec 4 := w.extractLsb' 12 4

/-- The field Z, bits 11:8, which must be zero (R70, R73). -/
def zField (w : Word) : BitVec 4 := w.extractLsb' 8 4

/-- The field ARG, bits 7:0: the index of SELECT and LOOKUP, zero for the others (R70). -/
def argField (w : Word) : BitVec 8 := w.extractLsb' 0 8

/-- One row of the opcode map: a word selects it when `w and mask = pattern` (R71). `read` builds the command from
the operand `zext(w[7:0])` (R72). -/
structure OpcodeRow where
  pattern : Word
  mask : Word
  read : Nat → Instr

/-- The opcode map of R71, in the table's order. -/
def opcodeRows : List OpcodeRow :=
  [ { pattern := 0x0000, mask := 0xFFFF, read := fun _ => .nop },
    { pattern := 0x1000, mask := 0xFFFF, read := fun _ => .start },
    { pattern := 0x2000, mask := 0xFFFF, read := fun _ => .stop },
    { pattern := 0x3000, mask := 0xFF00, read := fun index => .select index },
    { pattern := 0x4000, mask := 0xFF00, read := fun index => .lookup index } ]

/-- The test of R71. -/
def OpcodeRow.selects (row : OpcodeRow) (w : Word) : Bool := decide (w &&& row.mask = row.pattern)

/-- Why a word is illegal: the three cases of R75, in its order. -/
inductive DecodeError where
  /-- OP is 0x5..0xF. -/
  | reservedOp
  /-- OP is 0x0..0x4 and Z is not zero. -/
  | reservedZ
  /-- OP is 0x0..0x2, Z is zero and ARG is not zero. -/
  | reservedArg
deriving DecidableEq, Repr

/-- The reason of a word that matches no row (R73, R75). -/
def illegalReason (w : Word) : DecodeError :=
  if 5 ≤ (opField w).toNat then .reservedOp
  else if zField w ≠ 0 then .reservedZ
  else .reservedArg

/-- Decoding: total, without state, and from the 16 bits of the word alone (R74). An illegal word is no command. -/
def decode (w : Word) : Except DecodeError Instr :=
  match opcodeRows.find? (fun row => row.selects w) with
  | some row => .ok (row.read (argField w).toNat)
  | none => .error (illegalReason w)

/-- The word of a well-formed command (R71; `0x3000 + index`, `0x4000 + index` in R130 and R133). -/
def encode : Instr → Word
  | .nop => 0x0000
  | .start => 0x1000
  | .stop => 0x2000
  | .select index => 0x3000 + BitVec.ofNat 16 index
  | .lookup index => 0x4000 + BitVec.ofNat 16 index

/-- The command read from an opcode-table word of `nbits` bits. Every command is one word of 16 bits (R79), so a
value that does not fit 16 bits is no command. -/
def decodeTableWord (nbits w : Nat) : Option Instr :=
  let bits := w % 2 ^ nbits
  if bits < 65536 then
    match decode (BitVec.ofNat 16 bits) with
    | .ok i => some i
    | .error _ => none
  else none

end Sys2Proof
end

