-- ==== Sys2Proof/Machine/Flags.lean ====
section
/-! DEFINITION. The block has no status flags and no condition codes (10_state.md R34). What is derived from the
registers stands here: the output pin, the boundary test, and the two state machines. -/

namespace Sys2Proof.Machine

/-- `OUT = CTRL.OE and (CNT < CMP)`: the carrier pin, high first, low when disabled (R30, R114). -/
def Regs.out (r : Regs) : Bool := r.ctrl.oe && decide (r.cnt.toNat < r.cmp.toNat)

/-- The carrier pin of a state (R114). -/
def State.out (s : State) : Bool := s.regs.out

/-- The period boundary: `CNT + 1 >= TOP`, computed without wrap (R111). -/
def Regs.atBoundary (r : Regs) : Bool := decide (r.top.toNat ≤ r.cnt.toNat + 1)

/-- The equalization test `RATE_HI > 2 * RATE_LO`, strict and without wrap (R94). -/
def Regs.doublesHigh (r : Regs) : Bool := decide (2 * r.rateLo.toNat < r.rateHi.toNat)

/-- The source's CarrierState (R29, R127). -/
inductive CarrierState where
  | off
  | on
deriving DecidableEq, Repr

/-- The CarrierState is `CTRL.RUN` (R29). -/
def Regs.carrier (r : Regs) : CarrierState := if r.ctrl.run then .on else .off

/-- The source's ModulationState (R135). -/
inductive ModulationState where
  | silent
  | tone (i : Fin 16)
deriving DecidableEq, Repr

/-- The registers hold a ModulationState: (0, 0) for SILENT, the rates of row `i` for TONE(i). The index itself is not
stored, so two rows of equal rates would be the same state (R135). -/
def Regs.modulatedBy (c : Config) (r : Regs) : ModulationState → Prop
  | .silent => r.rateLo = 0 ∧ r.rateHi = 0
  | .tone i => r.rateLo = (c.tone i).rateLo ∧ r.rateHi = (c.tone i).rateHi

/-- The ModulationState that SELECT goes to (R135). -/
def selectedModulation (index : Nat) : ModulationState :=
  if h : index < 16 then .tone ⟨index, h⟩ else .silent

end Sys2Proof.Machine
end

