-- ==== Sys2Proof/Machine/Engine.lean ====
section
/-! DEFINITION. The DDS / modulation engine: CYCLE, one invocation per carrier cycle (40_dds_engine.md R90 to R96). -/

namespace Sys2Proof.Machine

/-- The step of an accumulator, `(TOP * RATE) div 16`, the product exact (R92). -/
def phaseStep (top rate : Word) : Nat := top.toNat * rate.toNat / 16

/-- `ACC <- (ACC + inc) mod 65536` (R90, R92). -/
def advance (acc : Word) (inc : Nat) : Word := BitVec.ofNat 16 ((acc.toNat + inc) % 65536)

/-- The equalized high sample: doubled, or `s + (s tdiv 2)` (R94). -/
def equalize (double : Bool) (sample : Int) : Int :=
  if double then 2 * sample else sample + sample.tdiv 2

/-- The deviation of the next period, `(s_lo + e_hi) tdiv SHALLOW`, SHALLOW being 32 (R95). -/
def blend (sLo eHi : Int) : Int := (sLo + eHi).tdiv 32

/-- The period to stage, `NOMINAL + q` (R95, R96). For a valid configuration it fits the register (R97). -/
def stagedPeriod (c : Config) (q : Int) : Word := BitVec.ofInt 16 (c.nominal + q)

/-- Step 1: commit the staged period (R91). -/
def Regs.commit (r : Regs) : Regs := r.setPeriod r.pend

/-- Step 2: advance both accumulators by the period now live (R92). -/
def Regs.advancePhases (r : Regs) : Regs :=
  { r with
    accLo := advance r.accLo (phaseStep r.top r.rateLo)
    accHi := advance r.accHi (phaseStep r.top r.rateHi) }

/-- Steps 2 to 4 on advanced accumulators: sample, equalize, blend (R93, R94, R95). -/
def Regs.deviation (c : Config) (r : Regs) : Int :=
  blend (sampleAt c r.accLo) (equalize r.doublesHigh (sampleAt c r.accHi))

/-- Step 5: stage the next period (R96). -/
def Regs.stage (c : Config) (r : Regs) : Regs := { r with pend := stagedPeriod c (r.deviation c) }

/-- CYCLE (R90): the five steps in order, as one event. -/
def Regs.cycle (c : Config) (r : Regs) : Regs := r.commit.advancePhases.stage c

end Sys2Proof.Machine
end

