-- ==== Sys2Proof/Machine/Timer.lean ====
section
/-! DEFINITION. The carrier timer: TICK and the period boundary (41_timer_tick.md R110 to R113), which is the block's one
interrupt-like event (60_exceptions.md R142 to R149). -/

namespace Sys2Proof.Machine

/-- The period boundary: the counter returns to 0 and, if the event is armed, the engine runs inside the same tick. It
saves nothing, masks nothing and leaves nothing pending (R111, R113, R143, R144, R148). -/
def Regs.boundary (c : Config) (r : Regs) : Regs :=
  if r.ctrl.ie then Regs.cycle c { r with cnt := 0 } else { r with cnt := 0 }

/-- TICK: nothing while the carrier is OFF (R110), else a boundary or one count (R111). -/
def Regs.tick (c : Config) (r : Regs) : Regs :=
  if r.ctrl.run then
    if r.atBoundary then r.boundary c else { r with cnt := BitVec.ofNat 16 (r.cnt.toNat + 1) }
  else r

/-- `n` ticks in a row with no command among them: `WAIT n` (R81). -/
def Regs.ticks (c : Config) : Nat → Regs → Regs
  | 0, r => r
  | n + 1, r => Regs.ticks c n (r.tick c)

/-- A tick as an event: no command is presented, so no response is driven (R77). While reset is asserted no tick
counts (R160). -/
def State.tick (c : Config) (s : State) : State :=
  s.finish (if s.rst then s.regs else s.regs.tick c)

end Sys2Proof.Machine
end

