-- ==== Sys2Proof/Machine/Events.lean ====
section
/-! DEFINITION. How the events of a run are served, one at a time (00_scope.md R8, 20_memory.md R62), the clocked edge
(41_timer_tick.md R117), and the configuration check (00_scope.md R12). -/

namespace Sys2Proof.Machine

/-- A presented command word. While reset is asserted it is ignored (R160). An illegal word is refused (R75). `run` is
the meaning of the decoded command. -/
def serveCommand (run : Instr → State → StepOutcome) (w : Word) (s : State) : StepOutcome :=
  if s.rst then .next (s.finish s.regs)
  else match decode w with
    | .ok i => run i s
    | .error _ => .refused .illegalCommand

/-- One event. -/
def serveEvent (c : Config) (run : Instr → State → StepOutcome) (e : Event) (s : State) : StepOutcome :=
  match e with
  | .tick => .next (s.tick c)
  | .cmd w => serveCommand run w s
  | .rst asserted => .next (s.driveReset c asserted)

/-- The next event of the run. Where none is left, no command is presented and the clock goes on: a tick (log
entry 3). -/
def serveNext (c : Config) (run : Instr → State → StepOutcome) (s : State) : StepOutcome :=
  match s.events with
  | [] => .next (s.tick c)
  | e :: rest => serveEvent c run e { s with events := rest }

/-- The commands' meanings at any configuration. -/
def execOn (c : Config) (i : Instr) (s : State) : StepOutcome :=
  match i with
  | .nop => execNop s
  | .start => startOn c s
  | .stop => execStop s
  | .select index => selectOn c index s
  | .lookup index => lookupOn c index s

/-- A step at any configuration: a model takes the open parameters as arguments (R10). -/
def stepOn (c : Config) (s : State) : StepOutcome := serveNext c (execOn c) s

/-- The start of a machine from raw parameters: a configuration that is not valid is refused, at configuration time and
not at run time (R12, R163). -/
def boot (p : Params) : StepOutcome :=
  if h : p.Valid then .next (State.resetOn { p with valid := h }) else .refused .invalidConfiguration

/-- The input ports as one rising edge of `clk` samples them (R9). -/
structure EdgeInput where
  rst : Bool
  cmdValid : Bool
  cmdWord : Word
deriving DecidableEq, Repr

/-- The events of one rising edge: first one tick, then at most one command, the one presented. When `cmd_valid = 0` the
word is ignored (R70, R117). The level of `rst` is taken before both (log entry 5). -/
def EdgeInput.events (p : EdgeInput) : List Event :=
  [.rst p.rst, .tick] ++ if p.cmdValid then [.cmd p.cmdWord] else []

/-- The command word `w` is presented next. Reset is released, or the word would be ignored (R160). -/
def State.presentNext (s : State) (w : Word) : State := { s with rst := false, events := .cmd w :: s.events }

end Sys2Proof.Machine
end

