-- ==== Sys2Proof/Machine/Step.lean ====
section
/-! DEFINITION. The step: one event of the run (00_scope.md R8). -/

namespace Sys2Proof.Machine

/-- One step serves the next event, a decoded command being run by `exec`. -/
def step (s : State) : Host.Outcome State Fault Refusal := serveNext Config.machine exec s

/-- `s` with an opcode-table word of `nbits` bits presented as the next command (log entry 2). -/
def State.withFetchWord (s : State) (nbits w : Nat) : State := s.presentNext (BitVec.ofNat 16 (w % 2 ^ nbits))

end Sys2Proof.Machine
end

