-- ==== Sys2Proof/Safety.lean ====
section
/-! DEFINITION. What holds of every state a run reaches (10_state.md R29, R31, 41_timer_tick.md R118), in the terms the
statements use. -/

namespace Sys2Proof.Machine

/-- The relation of CTRL's fields: `CFG = OE = IE`, and RUN implies all three (R29). -/
def Ctrl.Legal (k : Ctrl) : Prop := k.cfg = k.oe ∧ k.oe = k.ie ∧ (k.run = true → k.ie = true)

/-- The rate pair is (0, 0) or one whole row of the tone ROM: it is never torn (R23, R31 (e), R131). -/
def RatePairWhole (c : Config) (r : Regs) : Prop := ∃ m, r.modulatedBy c m

/-- A period within `D_MAX` ticks of `NOMINAL` (R31 (a), (b), R100). -/
def PeriodInRange (c : Config) (period : Word) : Prop :=
  c.nominal ≤ period.toNat + c.dMax ∧ period.toNat ≤ c.nominal + c.dMax

/-- The invariant of the registers: R31, its parts (a) to (f). -/
structure RegInv (c : Config) (r : Regs) : Prop where
  /-- (a) -/
  pend_in_range : PeriodInRange c r.pend
  /-- (b) -/
  top_in_range : PeriodInRange c r.top
  /-- (c) -/
  cmp_half : r.cmp.toNat = r.top.toNat / 2
  /-- (d), R118 -/
  cnt_below : r.cnt.toNat < r.top.toNat
  /-- (e) -/
  rates_whole : RatePairWhole c r
  /-- (f), R29 -/
  ctrl_legal : r.ctrl.Legal

/-- The invariant of a state: that of its registers, and, while reset is asserted, every register at its reset value
(R160). -/
structure Inv (c : Config) (s : State) : Prop where
  regs : RegInv c s.regs
  held_in_reset : s.rst = true → s.regs = Regs.resetOn c

/-- The machine runs `n` steps from `s` and is then in `t`: no step was refused. -/
def RunsTo (n : Nat) (s t : State) : Prop := Host.Core.run Sys2Proof.core n s = .next t

end Sys2Proof.Machine
end

