-- ==== Sys2Proof/Certificates/Slice0/Obligations.lean ====
section
/-! DEFINITION. The statements about the model, from the spec's numbered rules. `Config.machine` is an open valid
configuration (log entry 1), so what is said of it is said of every valid configuration. -/

open Sys2Proof Sys2Proof.Machine

/-! ### Encoding (30_encoding.md) -/

/-- Decode and encode agree on every well-formed command, with every index 0..255 (R71, R72). -/
def Obligations.DecodeOfEncodeIsTheCommand : Prop :=
  ∀ i : Instr, i.WellFormed → decode (encode i) = .ok i

/-- Every word that decodes is the word of the command it decodes to, which is well formed: no two words share a
meaning (R71, R72). -/
def Obligations.EncodeOfDecodedCommandIsTheWord : Prop :=
  ∀ (w : Word) (i : Instr), decode w = .ok i → i.WellFormed ∧ encode i = w

/-- R71 (the spec's decision D2): the five patterns, each selected by `(w and mask) = match`, and no word matching two
of them. -/
def Obligations.OpcodeMapSelectsAtMostOneRow : Prop :=
  (∀ w : Word,
    (w &&& 0xFFFF#16 = 0x0000#16 → decode w = .ok .nop) ∧
    (w &&& 0xFFFF#16 = 0x1000#16 → decode w = .ok .start) ∧
    (w &&& 0xFFFF#16 = 0x2000#16 → decode w = .ok .stop) ∧
    (w &&& 0xFF00#16 = 0x3000#16 → decode w = .ok (.select (w.toNat % 256))) ∧
    (w &&& 0xFF00#16 = 0x4000#16 → decode w = .ok (.lookup (w.toNat % 256)))) ∧
  ∀ (w : Word) (j k : Fin 5),
    (opcodeRows[j]'j.isLt).selects w = true → (opcodeRows[k]'k.isLt).selects w = true → j = k

/-- R73 (the spec's decision D2): a word whose Z is not zero, or whose ARG is not zero under the OP of NOP, START or
STOP, matches no row and is illegal. -/
def Obligations.ReservedFieldsMustBeZero : Prop :=
  ∀ w : Word, (zField w ≠ 0 ∨ ((opField w).toNat ≤ 2 ∧ argField w ≠ 0)) →
    (∀ row ∈ opcodeRows, row.selects w = false) ∧ ∃ e, decode w = .error e

/-- R75: the illegal words are those of a reserved OP, a non-zero Z, or a non-zero ARG under OP 0 to 2; and the machine
refuses every one of them, changing nothing and driving nothing. -/
def Obligations.IllegalWordsAreRefused : Prop :=
  ∀ w : Word,
    ((∃ e, decode w = .error e) ↔
      (5 ≤ (opField w).toNat ∨ zField w ≠ 0 ∨ ((opField w).toNat ≤ 2 ∧ argField w ≠ 0))) ∧
    ∀ (s : State) (rest : List Event), s.rst = false → s.events = .cmd w :: rest →
      (∃ e, decode w = .error e) → step s = .refused .illegalCommand

/-- A few words read as the spec's decoder vectors say (95_test_vectors.md section 6). -/
def Obligations.WordsDecodeToTheirCommands : Prop :=
  decode 0x0000 = .ok .nop ∧ decode 0x1000 = .ok .start ∧ decode 0x2000 = .ok .stop ∧
  decode 0x300F = .ok (.select 15) ∧ decode 0x30FF = .ok (.select 255) ∧ decode 0x4009 = .ok (.lookup 9) ∧
  decode 0x20FF = .error .reservedArg ∧ decode 0x4809 = .error .reservedZ ∧ decode 0x5000 = .error .reservedOp

/-! ### The step (00_scope.md R8, 20_memory.md R62) -/

/-- When the next event presents a word that decodes to a command, and reset is not asserted, the step is exec of that
command after the event is taken off the run. `withFetchWord` presents exactly such an event (log entry 2). -/
def Obligations.StepRunsTheDecodedCommand : Prop :=
  ∀ (s : State) (w : Word) (i : Instr), decode w = .ok i →
    (∀ rest, s.rst = false → s.events = .cmd w :: rest → step s = exec i { s with events := rest }) ∧
    step (s.withFetchWord 16 w.toNat) = exec i { s with rst := false }

/-- A step answers a next state but for the two events the spec gives no meaning (R75, R122, R141): an illegal word, and
START while the carrier is ON. No step faults (R140). -/
def Obligations.StepStopsOnlyOnIllegalWordOrSecondStart : Prop :=
  ∀ s : State,
    (∃ t, step s = .next t) ∨
    (∃ w rest e, s.rst = false ∧ s.events = .cmd w :: rest ∧ decode w = .error e ∧
      step s = .refused .illegalCommand) ∨
    (∃ w rest, s.rst = false ∧ s.events = .cmd w :: rest ∧ decode w = .ok .start ∧ s.regs.ctrl.run = true ∧
      step s = .refused .startWhileRunning)

/-! ### The commands (42_carrier_ctl.md, 43_selection.md) -/

/-- R120: NOP is the word 0x0000 (the spec's decision D2). It completes in every state, changes nothing and drives no
response. -/
def Obligations.NopChangesNothing : Prop :=
  encode .nop = 0x0000 ∧ decode 0x0000 = .ok .nop ∧ ∀ s : State, ∃ t, exec .nop s = .next t ∧
    t.regs = s.regs ∧ t.respValid = false ∧ t.respWord = 0 ∧ t.out = s.out ∧ t.rst = s.rst ∧ t.events = s.events

/-- R121 and R123: START while the carrier is OFF completes: it sets CTRL's four fields, TOP and CMP to the nominal
period and its half, and clears CNT (the spec's decision D20). OUT becomes 1 at once. It writes nothing else: the
accumulators, PEND and the rates keep their values (D25). -/
def Obligations.StartWhileOffStartsTheCarrier : Prop :=
  encode .start = 0x1000 ∧ decode 0x1000 = .ok .start ∧
  ∀ s : State, s.regs.ctrl.run = false → ∃ t, exec .start s = .next t ∧
    t.regs.ctrl = { run := true, ie := true, oe := true, cfg := true } ∧
    t.regs.top.toNat = Config.machine.nominal ∧
    t.regs.cmp.toNat = Config.machine.nominal / 2 ∧
    t.regs.cnt.toNat = 0 ∧
    t.out = true ∧ t.respValid = false ∧ t.respWord = 0 ∧
    t.regs.accLo = s.regs.accLo ∧ t.regs.accHi = s.regs.accHi ∧ t.regs.pend = s.regs.pend ∧
    t.regs.rateLo = s.regs.rateLo ∧ t.regs.rateHi = s.regs.rateHi ∧
    t.rst = s.rst ∧ t.events = s.events

/-- R122 (the spec's decision D21): START while the carrier is ON is refused, in every such state. -/
def Obligations.StartWhileOnIsRefused : Prop :=
  ∀ s : State, s.regs.ctrl.run = true → exec .start s = .refused .startWhileRunning

/-- R124: STOP is the word 0x2000 and completes in every state. It clears CTRL.RUN and changes nothing else; the pin
keeps its level, and no later tick does anything. While the carrier is OFF it changes nothing at all (R125, which the
spec marks as derived). -/
def Obligations.StopHaltsTheClockAndKeepsTheRest : Prop :=
  encode .stop = 0x2000 ∧ decode 0x2000 = .ok .stop ∧
  ∀ s : State, ∃ t, exec .stop s = .next t ∧
    t.regs.ctrl.run = false ∧
    t.regs.ctrl.ie = s.regs.ctrl.ie ∧ t.regs.ctrl.oe = s.regs.ctrl.oe ∧ t.regs.ctrl.cfg = s.regs.ctrl.cfg ∧
    t.regs.accLo = s.regs.accLo ∧ t.regs.accHi = s.regs.accHi ∧
    t.regs.rateLo = s.regs.rateLo ∧ t.regs.rateHi = s.regs.rateHi ∧
    t.regs.top = s.regs.top ∧ t.regs.cmp = s.regs.cmp ∧ t.regs.pend = s.regs.pend ∧ t.regs.cnt = s.regs.cnt ∧
    t.out = s.out ∧ t.respValid = false ∧ t.respWord = 0 ∧ t.rst = s.rst ∧ t.events = s.events ∧
    (s.regs.ctrl.run = false → t.regs = s.regs) ∧
    ∀ n : Nat, Regs.ticks Config.machine n t.regs = t.regs

/-- R130: SELECT is the word 0x3000 + index and completes in every state and for every index. Below 16 it loads the
row's two rates, which are those of R56 without truncation; from 16 on it zeroes both. It writes nothing else: an
index beyond the table is the rule's corner case (c). -/
def Obligations.SelectLoadsTheRatePair : Prop :=
  (∀ index, index < 256 → (encode (.select index)).toNat = 0x3000 + index) ∧
  ∀ (s : State) (index : Nat), ∃ t, exec (.select index) s = .next t ∧
    (∀ h : index < 16,
      t.regs.rateLo = (Config.machine.tone ⟨index, h⟩).rateLo ∧
      t.regs.rateHi = (Config.machine.tone ⟨index, h⟩).rateHi ∧
      t.regs.rateLo.toNat = Config.machine.rate (toneKey ⟨index, h⟩).lowHz ∧
      t.regs.rateHi.toNat = Config.machine.rate (toneKey ⟨index, h⟩).highHz) ∧
    (16 ≤ index → t.regs.rateLo = 0 ∧ t.regs.rateHi = 0) ∧
    t.regs.accLo = s.regs.accLo ∧ t.regs.accHi = s.regs.accHi ∧ t.regs.pend = s.regs.pend ∧
    t.regs.top = s.regs.top ∧ t.regs.cmp = s.regs.cmp ∧ t.regs.cnt = s.regs.cnt ∧ t.regs.ctrl = s.regs.ctrl ∧
    t.respValid = false ∧ t.respWord = 0 ∧ t.rst = s.rst ∧ t.events = s.events

/-- R133 and R134: LOOKUP is the word 0x4000 + index, completes in every state and for every index, changes no
register, and answers the row's symbol and frequencies with FOUND set, or the empty result from index 16 on. -/
def Obligations.LookupAnswersTheRow : Prop :=
  (∀ index, index < 256 → (encode (.lookup index)).toNat = 0x4000 + index) ∧
  ∀ (s : State) (index : Nat), ∃ t, exec (.lookup index) s = .next t ∧
    t.regs = s.regs ∧ t.out = s.out ∧ t.rst = s.rst ∧ t.events = s.events ∧ t.respValid = true ∧
    (∀ h : index < 16,
      respFound t.respWord = true ∧
      respSymbol t.respWord = (toneKey ⟨index, h⟩).symbol ∧
      respLowHz t.respWord = (toneKey ⟨index, h⟩).lowHz ∧
      respHighHz t.respWord = (toneKey ⟨index, h⟩).highHz) ∧
    (16 ≤ index → t.respWord = 0)

/-- R136: SELECT and LOOKUP of one index agree: LOOKUP returns the row of the standard table (R55), written out here,
and the selected rates are those of its frequencies. From 16 on SELECT gives silence and LOOKUP the empty result. The
rows other than 0 and 9 are the spec's decision D17 (log entry 13). -/
def Obligations.SelectThenLookupAgree : Prop :=
  ∀ (s : State) (index : Nat),
    let table : List (Nat × Nat × Nat) :=
      [(0x31, 697, 1209), (0x32, 697, 1336), (0x33, 697, 1477), (0x34, 770, 1209), (0x35, 770, 1336), (0x36, 770, 1477),
        (0x37, 852, 1209), (0x38, 852, 1336), (0x39, 852, 1477), (0x30, 941, 1336), (0x2A, 941, 1209), (0x23, 941, 1477)] ++
      [(0x41, 697, 1633), (0x42, 770, 1633), (0x43, 852, 1633), (0x44, 941, 1633)]
    ∃ t u, exec (.select index) s = .next t ∧ exec (.lookup index) t = .next u ∧
    u.regs = t.regs ∧
    (index < 16 →
      respFound u.respWord = true ∧
      table[index]? = some ((respSymbol u.respWord).toNat, (respLowHz u.respWord).toNat, (respHighHz u.respWord).toNat) ∧
      u.regs.rateLo.toNat = Config.machine.rate (respLowHz u.respWord) ∧
      u.regs.rateHi.toNat = Config.machine.rate (respHighHz u.respWord)) ∧
    (16 ≤ index → u.regs.rateLo = 0 ∧ u.regs.rateHi = 0 ∧ respFound u.respWord = false ∧ u.respWord = 0)

/-- R128, R133: the response to LOOKUP of an index is the same in every state, whatever the carrier and the selection.
-/
def Obligations.LookupResponseIsTheSameInEveryState : Prop :=
  ∀ (index : Nat) (s s' : State), ∃ t t', exec (.lookup index) s = .next t ∧ exec (.lookup index) s' = .next t' ∧
    t.respWord = t'.respWord ∧ t.respValid = t'.respValid

/-- The access rights of the host (R32, R151): no command writes an accumulator or PEND, so none can invoke the engine
(R78); only SELECT writes the rates, only START writes TOP, CMP and CNT, only START and STOP write CTRL. -/
def Obligations.CommandsWriteOnlyWhatTheHostMay : Prop :=
  ∀ (i : Instr) (s t : State), exec i s = .next t →
    t.regs.accLo = s.regs.accLo ∧ t.regs.accHi = s.regs.accHi ∧ t.regs.pend = s.regs.pend ∧
    ((∀ index, i ≠ .select index) → t.regs.rateLo = s.regs.rateLo ∧ t.regs.rateHi = s.regs.rateHi) ∧
    (i ≠ .start → t.regs.top = s.regs.top ∧ t.regs.cmp = s.regs.cmp ∧ t.regs.cnt = s.regs.cnt) ∧
    (i ≠ .start → i ≠ .stop → t.regs.ctrl = s.regs.ctrl) ∧
    t.rst = s.rst ∧ t.events = s.events

/-- R127: the transitions of the CarrierState under START, STOP and TICK, and that SELECT, LOOKUP and NOP never change
it. -/
def Obligations.CarrierStateMachine : Prop :=
  ∀ s : State,
    (s.regs.carrier = .off → ∃ t, exec .start s = .next t ∧ t.regs.carrier = .on) ∧
    (s.regs.carrier = .on → exec .start s = .refused .startWhileRunning) ∧
    (∃ t, exec .stop s = .next t ∧ t.regs.carrier = .off) ∧
    (s.regs.carrier = .off → s.regs.tick Config.machine = s.regs) ∧
    (s.regs.tick Config.machine).carrier = s.regs.carrier ∧
    (∃ t, exec .nop s = .next t ∧ t.regs.carrier = s.regs.carrier) ∧
    ∀ index, (∃ t, exec (.select index) s = .next t ∧ t.regs.carrier = s.regs.carrier) ∧
      ∃ t, exec (.lookup index) s = .next t ∧ t.regs.carrier = s.regs.carrier

/-- R135: the transitions of the ModulationState: SELECT i goes to TONE(i) or SILENT from any state, and nothing but
SELECT and reset changes it, no other command, no tick and no CYCLE. -/
def Obligations.ModulationStateMachine : Prop :=
  ∀ s : State,
    (∀ index, ∃ t, exec (.select index) s = .next t ∧
      t.regs.modulatedBy Config.machine (selectedModulation index)) ∧
    ∀ m : ModulationState, s.regs.modulatedBy Config.machine m →
      (∀ (i : Instr) (t : State), (∀ index, i ≠ .select index) → exec i s = .next t →
        t.regs.modulatedBy Config.machine m) ∧
      (s.regs.tick Config.machine).modulatedBy Config.machine m ∧
      (Regs.cycle Config.machine s.regs).modulatedBy Config.machine m

/-- R77 (the spec's decision D4): the response port is driven by LOOKUP and by nothing else, the word is 0 when it is
not driven, the empty result is all zero, and FOUND tells the two apart. -/
def Obligations.OnlyLookupDrivesTheResponse : Prop :=
  ∀ s t : State, step s = .next t →
    (t.respValid = true ↔
      s.rst = false ∧ ∃ w rest index, s.events = .cmd w :: rest ∧ decode w = .ok (.lookup index)) ∧
    (t.respValid = false → t.respWord = 0) ∧
    (∀ w rest index, s.rst = false → s.events = .cmd w :: rest → decode w = .ok (.lookup index) →
      (respFound t.respWord = true ↔ index < 16) ∧ (16 ≤ index → t.respWord = 0))

/-! ### The timer (41_timer_tick.md) -/

/-- R110: with the carrier OFF ticks change no state, however many: every register and the pin keep their values,
whether the carrier was never started or was stopped. -/
def Obligations.TicksWhileOffChangeNothing : Prop :=
  ∀ (s : State) (n : Nat) (rest : List Event), s.regs.ctrl.run = false →
    s.events = List.replicate n .tick ++ rest →
    ∃ t, RunsTo n s t ∧ t.regs = s.regs ∧ t.out = s.out ∧ t.rst = s.rst ∧ t.events = rest

/-- R111 (CYCLE inside the tick is the spec's decision D18): a tick with the carrier ON counts by one below the
boundary and changes nothing else; at the boundary the counter returns to 0 and, if the event is armed, CYCLE runs
inside the same tick. -/
def Obligations.TickCountsOrRunsTheEngine : Prop :=
  ∀ (s : State) (rest : List Event), s.rst = false → s.events = .tick :: rest → s.regs.ctrl.run = true →
    ∃ t, step s = .next t ∧ t.rst = false ∧ t.events = rest ∧ t.respValid = false ∧
      (s.regs.cnt.toNat + 1 < s.regs.top.toNat →
        t.regs.cnt.toNat = s.regs.cnt.toNat + 1 ∧ t.regs = { s.regs with cnt := t.regs.cnt }) ∧
      (s.regs.top.toNat ≤ s.regs.cnt.toNat + 1 → s.regs.ctrl.ie = true →
        t.regs.cnt.toNat = 0 ∧ t.regs = Regs.cycle Config.machine { s.regs with cnt := 0 }) ∧
      (s.regs.top.toNat ≤ s.regs.cnt.toNat + 1 → s.regs.ctrl.ie = false → t.regs = { s.regs with cnt := 0 })

/-- R113 (the spec's decision D29): with the carrier ON and the event not armed, a boundary wraps the counter and does
not invoke CYCLE: over any number of ticks CNT runs modulo TOP, and TOP, CMP, PEND, the accumulators and every other
register stay as they are. -/
def Obligations.UnarmedCarrierRunsAtAFixedPeriod : Prop :=
  ∀ (s : State) (n : Nat) (rest : List Event), s.rst = false → s.regs.ctrl.run = true → s.regs.ctrl.ie = false →
    s.regs.cnt.toNat < s.regs.top.toNat → s.events = List.replicate n .tick ++ rest →
    ∃ t, RunsTo n s t ∧ t.regs.cnt.toNat = (s.regs.cnt.toNat + n) % s.regs.top.toNat ∧
      t.regs = { s.regs with cnt := t.regs.cnt } ∧ t.events = rest

/-- R112, R114 and R115 over a whole cycle: from CNT = 0 with the carrier ON and armed, a run of TOP ticks counts
0, 1, ..., TOP - 1, the pin being high for exactly the first TOP div 2 of these positions, and the tick that ends the
cycle is the one that runs CYCLE. -/
def Obligations.CarrierCycleLastsTopTicks : Prop :=
  ∀ (s : State) (rest : List Event), s.rst = false → s.regs.ctrl.run = true → s.regs.ctrl.ie = true →
    s.regs.ctrl.oe = true → s.regs.cnt = 0 → 0 < s.regs.top.toNat → s.regs.cmp.toNat = s.regs.top.toNat / 2 →
    s.events = List.replicate s.regs.top.toNat .tick ++ rest →
    (∀ k, k < s.regs.top.toNat → ∃ t, RunsTo k s t ∧ t.regs = { s.regs with cnt := BitVec.ofNat 16 k } ∧
      (t.out = true ↔ k < s.regs.top.toNat / 2)) ∧
    ∃ t, RunsTo s.regs.top.toNat s t ∧ t.regs = Regs.cycle Config.machine s.regs ∧ t.events = rest

/-- R117 (the spec's decision D19): a clocked edge with reset low is one tick and then the command presented at it, if
any: the command acts on the state the tick has left. -/
def Obligations.ClockedEdgeIsTickThenCommand : Prop :=
  ∀ (s : State) (p : EdgeInput) (rest : List Event), s.rst = false → p.rst = false → s.events = p.events ++ rest →
    (p.cmdValid = false → ∃ t, RunsTo 2 s t ∧ t.regs = s.regs.tick Config.machine ∧ t.events = rest) ∧
    (∀ i, p.cmdValid = true → decode p.cmdWord = .ok i →
      Host.Core.run core 3 s = exec i { s with regs := s.regs.tick Config.machine, events := rest, resp := none })

/-- R117 and R132 (the spec's decision D19): a SELECT presented at the edge of a boundary is not seen by the CYCLE of that
edge, which advances, equalizes and stages with the rates held before it; the edge leaves exactly that CYCLE's registers
with the new pair selected. The next CYCLE commits the period so staged, and uses the new pair for both accumulators and
for the equalization test. -/
def Obligations.SelectAtABoundaryEdgeIsSeenByTheNextCycle : Prop :=
  ∀ (s : State) (index : Nat) (rest : List Event), index < 256 → s.rst = false →
    s.regs.ctrl.run = true → s.regs.ctrl.ie = true → s.regs.top.toNat ≤ s.regs.cnt.toNat + 1 →
    s.events = EdgeInput.events { rst := false, cmdValid := true, cmdWord := encode (.select index) } ++ rest →
    ∃ t, RunsTo 3 s t ∧ t.events = rest ∧
      let old := Regs.cycle Config.machine { s.regs with cnt := 0 }
      let pair := ratePair Config.machine index
      let next := Regs.cycle Config.machine t.regs
      let sLo := Config.machine.sine (BitVec.ofNat 8 (next.accLo.toNat / 256))
      let sHi := Config.machine.sine (BitVec.ofNat 8 (next.accHi.toNat / 256))
      let eHi := if pair.2.toNat > 2 * pair.1.toNat then 2 * sHi else sHi + sHi.tdiv 2
      t.regs = old.select pair ∧
      t.regs.accLo.toNat = (s.regs.accLo.toNat + s.regs.pend.toNat * s.regs.rateLo.toNat / 16) % 65536 ∧
      t.regs.accHi.toNat = (s.regs.accHi.toNat + s.regs.pend.toNat * s.regs.rateHi.toNat / 16) % 65536 ∧
      t.regs.pend = old.pend ∧
      t.regs.modulatedBy Config.machine (selectedModulation index) ∧
      next.top = old.pend ∧
      next.accLo.toNat = (t.regs.accLo.toNat + old.pend.toNat * pair.1.toNat / 16) % 65536 ∧
      next.accHi.toNat = (t.regs.accHi.toNat + old.pend.toNat * pair.2.toNat / 16) % 65536 ∧
      (next.pend.toNat : Int) = Config.machine.nominal + (sLo + eHi).tdiv 32

/-! ### The engine (40_dds_engine.md) -/

/-- R90 (its roundings and its period are the spec's decisions D14 and D16): CYCLE, every register it writes as an
exact integer, and that it writes no other. The staged period is `NOMINAL + q` with no truncation. -/
def Obligations.CycleCommitsAdvancesAndStages : Prop :=
  ∀ r : Regs,
    let t := Regs.cycle Config.machine r
    let sLo := Config.machine.sine (BitVec.ofNat 8 (t.accLo.toNat / 256))
    let sHi := Config.machine.sine (BitVec.ofNat 8 (t.accHi.toNat / 256))
    let eHi := if r.rateHi.toNat > 2 * r.rateLo.toNat then 2 * sHi else sHi + sHi.tdiv 2
    t.top = r.pend ∧
    t.cmp.toNat = r.pend.toNat / 2 ∧
    t.accLo.toNat = (r.accLo.toNat + r.pend.toNat * r.rateLo.toNat / 16) % 65536 ∧
    t.accHi.toNat = (r.accHi.toNat + r.pend.toNat * r.rateHi.toNat / 16) % 65536 ∧
    (t.pend.toNat : Int) = Config.machine.nominal + (sLo + eHi).tdiv 32 ∧
    t.rateLo = r.rateLo ∧ t.rateHi = r.rateHi ∧ t.cnt = r.cnt ∧ t.ctrl = r.ctrl

/-- R100 (marked as derived in the spec): after every CYCLE the staged period is within D_MAX of NOMINAL, whatever the
state, hence positive and representable, and the next commit puts that value in TOP. -/
def Obligations.StagedPeriodStaysWithinDMax : Prop :=
  ∀ r : Regs,
    let t := Regs.cycle Config.machine r
    ((t.pend.toNat : Int) - Config.machine.nominal).natAbs ≤ 3 * Config.machine.sineAmp / 32 ∧
    2 ≤ t.pend.toNat ∧ (Regs.cycle Config.machine t).top = t.pend

/-- R97 (marked as derived in the spec): the ranges of the intermediate values in a state that meets the invariant:
products below 65536, steps at most 4095, no carry beyond 17 bits, samples, equalized sample and blend within A, 2A and
3A. -/
def Obligations.EngineIntermediatesStayInRange : Prop :=
  ∀ r : Regs, RegInv Config.machine r →
    let a := r.commit.advancePhases
    let eHi := equalize r.doublesHigh (sampleAt Config.machine a.accHi)
    r.pend.toNat * r.rateLo.toNat < 65536 ∧ r.pend.toNat * r.rateHi.toNat < 65536 ∧
    phaseStep r.pend r.rateLo ≤ 4095 ∧ phaseStep r.pend r.rateHi ≤ 4095 ∧
    r.accLo.toNat + phaseStep r.pend r.rateLo < 65536 + 4096 ∧
    r.accHi.toNat + phaseStep r.pend r.rateHi < 65536 + 4096 ∧
    (sampleAt Config.machine a.accLo).natAbs ≤ Config.machine.sineAmp ∧
    (sampleAt Config.machine a.accHi).natAbs ≤ Config.machine.sineAmp ∧
    eHi.natAbs ≤ 2 * Config.machine.sineAmp ∧
    (sampleAt Config.machine a.accLo + eHi).natAbs ≤ 3 * Config.machine.sineAmp ∧
    (a.deviation Config.machine).natAbs ≤ Config.machine.dMax

/-- R94 and R95 with the spec's decision D14: truncation makes the modulation symmetric about NOMINAL: negating both
samples negates the deviation, on either branch. -/
def Obligations.ModulationIsSymmetric : Prop :=
  ∀ (double : Bool) (sLo sHi : Int),
    equalize double (-sHi) = -equalize double sHi ∧
    blend (-sLo) (equalize double (-sHi)) = -blend sLo (equalize double sHi)

/-- R103 (marked as derived in the spec): with both rates 0 every CYCLE leaves the accumulators unchanged and stages
NOMINAL plus a constant of at most (2A + A div 2) div 32, so that from the second CYCLE on the carrier's period is that
constant one. It is NOMINAL when both frozen samples are 0. -/
def Obligations.SilenceFreezesThePhasesAndSettles : Prop :=
  ∀ r : Regs, r.rateLo = 0 → r.rateHi = 0 →
    let t := Regs.cycle Config.machine r
    let u := Regs.cycle Config.machine t
    let sLo := Config.machine.sine (BitVec.ofNat 8 (r.accLo.toNat / 256))
    let sHi := Config.machine.sine (BitVec.ofNat 8 (r.accHi.toNat / 256))
    t.accLo = r.accLo ∧ t.accHi = r.accHi ∧
    (t.pend.toNat : Int) = Config.machine.nominal + (sLo + (sHi + sHi.tdiv 2)).tdiv 32 ∧
    ((t.pend.toNat : Int) - Config.machine.nominal).natAbs ≤
      (Config.machine.sineAmp + Config.machine.sineAmp + Config.machine.sineAmp / 2) / 32 ∧
    u.pend = t.pend ∧ u.top = t.pend ∧
    Regs.cycle Config.machine u = u ∧
    (sLo = 0 → sHi = 0 → t.pend.toNat = Config.machine.nominal)

/-- R102: while the rates and the carrier period are constant, `angle(n+1) = (angle(n) + increment) mod 65536` with the
increment `(TOP * RATE) div 16`, so after n invocations each accumulator has advanced by n of them. -/
def Obligations.ConstantPeriodGivesConstantIncrements : Prop :=
  ∀ (r : Regs) (period n : Nat),
    (∀ k, k < n → ((Regs.cycle Config.machine)^[k] r).pend.toNat = period) →
    ((Regs.cycle Config.machine)^[n] r).accLo.toNat =
      (r.accLo.toNat + n * (period * r.rateLo.toNat / 16)) % 65536 ∧
    ((Regs.cycle Config.machine)^[n] r).accHi.toNat =
      (r.accHi.toNat + n * (period * r.rateHi.toNat / 16)) % 65536

/-- R104 (marked as derived in the spec): over any number of invocations each accumulator advances, modulo 65536, by the
sum of its steps, which is at most its rate times the ticks of the cycles, in sixteenths, and falls short of it by less
than 16 a cycle: the truncation of `div 16`. -/
def Obligations.MeanToneFrequencyIsTheRateLessTruncation : Prop :=
  ∀ (r : Regs) (n : Nat),
    let at_ := fun k => (Regs.cycle Config.machine)^[k] r
    let ticks := ((List.range n).map fun k => (at_ k).pend.toNat).sum
    let phase := fun rate : Word => ((List.range n).map fun k => (at_ k).pend.toNat * rate.toNat / 16).sum
    (at_ n).accLo.toNat = (r.accLo.toNat + phase r.rateLo) % 65536 ∧
    (at_ n).accHi.toNat = (r.accHi.toNat + phase r.rateHi) % 65536 ∧
    (16 * phase r.rateLo ≤ ticks * r.rateLo.toNat ∧ ticks * r.rateLo.toNat ≤ 16 * phase r.rateLo + 15 * n) ∧
    (16 * phase r.rateHi ≤ ticks * r.rateHi.toNat ∧ ticks * r.rateHi.toNat ≤ 16 * phase r.rateHi + 15 * n) ∧
    ∀ k, (at_ (k + 1)).top = (at_ k).pend ∧ (at_ k).rateLo = r.rateLo ∧ (at_ k).rateHi = r.rateHi

/-! ### Invariants (10_state.md R29, R31, 41_timer_tick.md R118) -/

/-- The state after reset meets the invariant. -/
def Obligations.ResetStateMeetsTheInvariant : Prop := Inv Config.machine State.reset

/-- Every step keeps the invariant: the periods within D_MAX of NOMINAL, CMP the half of TOP, CNT below TOP, the rate
pair whole, CTRL legal, and the registers at their reset values while reset is asserted. -/
def Obligations.EveryStepKeepsTheInvariant : Prop :=
  ∀ s t : State, Inv Config.machine s → step s = .next t → Inv Config.machine t

/-- R29: the reachable values of CTRL are 0b0000, 0b1111 and 0b1110: this holds after reset and every step keeps it,
from every state that has it. -/
def Obligations.CtrlTakesThreeValues : Prop :=
  let three := fun s : State => s.regs.ctrl.bits = 0b0000#4 ∨ s.regs.ctrl.bits = 0b1111#4 ∨ s.regs.ctrl.bits = 0b1110#4
  three State.reset ∧ ∀ s t : State, three s → step s = .next t → three t

/-- R131, R63: the rate pair is never torn: from every state in which it is (0, 0) or a whole row, every step leaves it
(0, 0) or a whole row, so every CYCLE reads such a pair. -/
def Obligations.RatePairIsNeverTorn : Prop :=
  ∀ s t : State, RatePairWhole Config.machine s.regs → step s = .next t → RatePairWhole Config.machine t.regs

/-- R166, with R121 and R160: only three steps change TOP or CMP: a tick outside reset with the carrier ON at an armed
boundary, which commits PEND; START while OFF, which loads NOMINAL; and asserting reset. Each leaves CNT = 0. R166 is
silent on reset, and an empty list of events reads as a tick by the model's choice (log entry 3). -/
def Obligations.PeriodChangesOnlyAtTheStartOfACycle : Prop :=
  ∀ s t : State, step s = .next t → (t.regs.top ≠ s.regs.top ∨ t.regs.cmp ≠ s.regs.cmp) →
    t.regs.cnt = 0 ∧
    (((s.events = [] ∨ ∃ rest, s.events = .tick :: rest) ∧ s.rst = false ∧ s.regs.ctrl.run = true ∧
        s.regs.ctrl.ie = true ∧ s.regs.top.toNat ≤ s.regs.cnt.toNat + 1 ∧ t.regs.top = s.regs.pend ∧
        t.regs.cmp.toNat = s.regs.pend.toNat / 2) ∨
      (∃ w rest, s.events = .cmd w :: rest ∧ decode w = .ok .start ∧ s.rst = false ∧ s.regs.ctrl.run = false ∧
        t.regs.top.toNat = Config.machine.nominal ∧ t.regs.cmp.toNat = Config.machine.nominal / 2) ∨
      ∃ rest, s.events = .rst true :: rest ∧ t.regs = State.reset.regs)

/-- R105 and R21: only a tick with the carrier ON at an armed boundary, or reset, changes an accumulator or PEND: the
engine is invoked by the timer and by nothing else. -/
def Obligations.OnlyTheBoundaryTickInvokesTheEngine : Prop :=
  ∀ s t : State, step s = .next t →
    (t.regs.accLo ≠ s.regs.accLo ∨ t.regs.accHi ≠ s.regs.accHi ∨ t.regs.pend ≠ s.regs.pend) →
    (∃ rest, s.events = .rst true :: rest) ∨
    ((s.events = [] ∨ ∃ rest, s.events = .tick :: rest) ∧ s.rst = false ∧ s.regs.ctrl.run = true ∧
      s.regs.ctrl.ie = true ∧ s.regs.top.toNat ≤ s.regs.cnt.toNat + 1)

/-! ### Reset (10_state.md R37, 70_reset_and_hazards.md R160, R161) -/

/-- R37 (the spec's decision D23): the reset values, and OUT. -/
def Obligations.ResetStateHasTheResetValues : Prop :=
  State.reset.regs.accLo = 0 ∧ State.reset.regs.accHi = 0 ∧
  State.reset.regs.rateLo = 0 ∧ State.reset.regs.rateHi = 0 ∧
  State.reset.regs.pend.toNat = Config.machine.nominal ∧ State.reset.regs.top.toNat = Config.machine.nominal ∧
  State.reset.regs.cmp.toNat = Config.machine.nominal / 2 ∧ State.reset.regs.cnt = 0 ∧
  State.reset.regs.ctrl.bits = 0b0000#4 ∧ State.reset.out = false ∧
  State.reset.regs.carrier = .off ∧ State.reset.regs.modulatedBy Config.machine .silent

/-- R160 (the spec's decision D24): asserting reset sets every register to its reset value from any state; while it is
asserted no legal command and no tick changes a register. That releasing reset changes no register, and that an illegal
word is ignored while it is asserted (R75 has it refused otherwise), are the model's reading of R160 (DEDUCED, log
entry 5). -/
def Obligations.ResetEventAndHeldReset : Prop :=
  ∀ (s : State) (rest : List Event),
    (s.events = .rst true :: rest →
      ∃ t, step s = .next t ∧ t.regs = State.reset.regs ∧ t.rst = true ∧ t.events = rest) ∧
    (∀ e, s.rst = true → (e = .tick ∨ ∃ w, e = .cmd w) → s.events = e :: rest →
      ∃ t, step s = .next t ∧ t.regs = s.regs ∧ t.rst = true ∧ t.events = rest ∧ t.respValid = false) ∧
    (s.events = .rst false :: rest →
      ∃ t, step s = .next t ∧ t.regs = s.regs ∧ t.rst = false ∧ t.events = rest)

/-! ### Runs: starting, stopping, restarting (41_timer_tick.md R112, 42_carrier_ctl.md R123, R126) -/

/-- R112: after START the first boundary is NOMINAL ticks later: until then the period is nominal and the engine has not
run, and the tick that completes them runs the first CYCLE, on the phases, rates and staged period START found. -/
def Obligations.FirstBoundaryIsNominalTicksAfterStart : Prop :=
  ∀ (s : State) (rest : List Event), s.rst = false → s.regs.ctrl.run = false →
    s.events = .cmd 0x1000 :: List.replicate Config.machine.nominal .tick ++ rest →
    (∀ k, k < Config.machine.nominal → ∃ t, RunsTo (k + 1) s t ∧ t.regs.cnt.toNat = k ∧
      t.regs.top.toNat = Config.machine.nominal ∧ t.regs.pend = s.regs.pend ∧ t.regs.accLo = s.regs.accLo ∧
      t.regs.accHi = s.regs.accHi) ∧
    ∃ t, RunsTo (Config.machine.nominal + 1) s t ∧
      t.regs = Regs.cycle Config.machine
        { s.regs with cnt := 0, ctrl := { run := true, ie := true, oe := true, cfg := true } } ∧
      t.regs.top = s.regs.pend

/-- R126, R170 (the spec's decision D25, conflict C3): STOP, any wait, START: at the end of the first, nominal, carrier
cycle the engine commits the period that was staged before the STOP and continues both accumulators with the rates
selected before it. The wait changes nothing. -/
def Obligations.RestartResumesTheStagedPeriod : Prop :=
  ∀ (s : State) (wait : Nat) (rest : List Event), s.rst = false →
    s.events = .cmd 0x2000 :: (List.replicate wait .tick ++
      .cmd 0x1000 :: (List.replicate Config.machine.nominal .tick ++ rest)) →
    ∃ t, RunsTo (wait + Config.machine.nominal + 2) s t ∧
      t.regs.top = s.regs.pend ∧ t.regs.cnt = 0 ∧
      t.regs.accLo.toNat = (s.regs.accLo.toNat + s.regs.pend.toNat * s.regs.rateLo.toNat / 16) % 65536 ∧
      t.regs.accHi.toNat = (s.regs.accHi.toNat + s.regs.pend.toNat * s.regs.rateHi.toNat / 16) % 65536 ∧
      t.regs.rateLo = s.regs.rateLo ∧ t.regs.rateHi = s.regs.rateHi ∧
      t.regs.ctrl.bits = 0b1111#4 ∧ t.events = rest

/-! ### The configuration (00_scope.md R12, 20_memory.md R56, 70_reset_and_hazards.md R165) -/

/-- R12 (the spec's decision D15): the machine starts exactly from the parameters that meet (a) to (f), spelled out
row by row, and refuses every other set, at configuration time. -/
def Obligations.InvalidConfigurationIsRefused : Prop :=
  ∀ p : Params,
    let dMax : Int := 3 * p.sineAmp / 32
    let nominal : Int := p.fClk / p.fCarrier
    ((∃ s, boot p = .next s) ↔
      1 ≤ p.fClk ∧ 1 ≤ p.fCarrier ∧ nominal - dMax ≥ 2 ∧ nominal + dMax ≤ 65535 ∧
      (∀ i : Fin 16, ∀ f, f = (toneKey i).lowHz ∨ f = (toneKey i).highHz →
        p.rate f < 65536 ∧ (nominal + dMax) * p.rate f < 65536) ∧
      ∀ x : Phase, -p.sineAmp ≤ p.sine x ∧ p.sine x ≤ p.sineAmp) ∧
    ((∃ s, boot p = .next s) ∨ boot p = .refused .invalidConfiguration)

/-- R56 (the spec's decision D12): a rate is `16 * f * 65536 / F_CLK` rounded to the nearest integer, halves up, and
in a valid configuration the tone ROM's fields hold it without truncation. -/
def Obligations.RatesAreRoundedToNearest : Prop :=
  ∀ (c : Config),
    (∀ f : Word, 2 * c.fClk * c.rate f ≤ 2 * (16 * f.toNat * 65536) + c.fClk ∧
      2 * (16 * f.toNat * 65536) + c.fClk < 2 * c.fClk * (c.rate f + 1)) ∧
    ∀ i : Fin 16, (c.tone i).rateLo.toNat = c.rate (toneKey i).lowHz ∧
      (c.tone i).rateHi.toNat = c.rate (toneKey i).highHz

/-- R165 (marked as derived in the spec): the static condition suffices: where it holds, the engine with the longest
masking is done before the counter reaches the smallest of the old and the new CMP and TOP, in every state that meets
the invariant. -/
def Obligations.DeadlineConditionSuffices : Prop :=
  ∀ (c : Config) (mask : Nat), c.MeetsDeadline mask → ∀ r : Regs, RegInv c r →
    c.engineTicks + mask < min (min r.cmp.toNat r.top.toNat) (min (r.pend.toNat / 2) r.pend.toNat)
end

