-- ==== Sys2Proof/Laws/Config.lean ====
section
/-! SUPPORT. What a valid configuration gives (00_scope.md R12), and the tone ROM's rates (20_memory.md R56). -/

namespace Sys2Proof

open Sys2Proof.Machine

variable (c : Config)

theorem Config.fClk_pos : 1 ≤ c.fClk := c.valid.1.1

theorem Config.fCarrier_pos : 1 ≤ c.fCarrier := c.valid.1.2

/-- R12 (b). -/
theorem Config.nominal_low : c.dMax + 2 ≤ c.nominal := c.valid.2.1

/-- R12 (c). -/
theorem Config.nominal_high : c.nominal + c.dMax ≤ 65535 := c.valid.2.2.1

/-- R12 (d). -/
theorem Config.rates_fit (i : Fin 16) : c.rate (toneKey i).lowHz < 65536 ∧ c.rate (toneKey i).highHz < 65536 :=
  c.valid.2.2.2.1 i

/-- R12 (e). -/
theorem Config.headroom : (c.nominal + c.dMax) * c.rateMax < 65536 := c.valid.2.2.2.2.1

/-- R12 (f). -/
theorem Config.sine_bounded (x : Phase) : (c.sine x).natAbs ≤ c.sineAmp := c.valid.2.2.2.2.2 x

theorem Config.dMax_eq : c.dMax = 3 * c.sineAmp / 32 := rfl

theorem Config.nominal_eq : c.nominal = c.fClk / c.fCarrier := rfl

/-- NOMINAL fits a period register. -/
@[simp] theorem Config.nominalWord_toNat : c.nominalWord.toNat = c.nominal := by
  have := c.nominal_high
  simp only [Config.nominalWord, BitVec.toNat_ofNat]
  omega

theorem le_foldl_max (l : List Nat) (a : Nat) : a ≤ l.foldl max a ∧ ∀ x ∈ l, x ≤ l.foldl max a := by
  induction l generalizing a with
  | nil => simp
  | cons y ys ih =>
    obtain ⟨hacc, hmem⟩ := ih (max a y)
    have := Nat.le_max_left a y
    have := Nat.le_max_right a y
    refine ⟨by simp only [List.foldl_cons]; omega, fun x hx => ?_⟩
    rcases List.mem_cons.mp hx with rfl | hx
    · simp only [List.foldl_cons]; omega
    · exact hmem x hx

theorem toneKey_mem (i : Fin 16) : toneKey i ∈ toneKeys.toList := by
  simp [toneKey]

/-- RATE_MAX bounds every rate of the table (R12 (e)). -/
theorem Params.rate_le_rateMax (p : Params) (i : Fin 16) :
    p.rate (toneKey i).lowHz ≤ p.rateMax ∧ p.rate (toneKey i).highHz ≤ p.rateMax := by
  have h := (le_foldl_max (toneKeys.toList.map fun k =>
    max (rateOf p.fClk k.lowHz.toNat) (rateOf p.fClk k.highHz.toNat)) 0).2 _
    (List.mem_map_of_mem (toneKey_mem i))
  exact ⟨le_trans (Nat.le_max_left _ _) h, le_trans (Nat.le_max_right _ _) h⟩

/-- The `mod 65536` of R56 changes nothing in a valid configuration. -/
@[simp] theorem Config.tone_rateLo_toNat (i : Fin 16) :
    (c.tone i).rateLo.toNat = c.rate (toneKey i).lowHz := by
  have := (c.rates_fit i).1
  simp only [Config.tone, BitVec.toNat_ofNat]
  omega

@[simp] theorem Config.tone_rateHi_toNat (i : Fin 16) :
    (c.tone i).rateHi.toNat = c.rate (toneKey i).highHz := by
  have := (c.rates_fit i).2
  simp only [Config.tone, BitVec.toNat_ofNat]
  omega

theorem Machine.toneRow_of_lt (index : Nat) (h : index < 16) : toneRow c index = some (c.tone ⟨index, h⟩) := by
  simp [toneRow, h]

theorem Machine.toneRow_of_ge (index : Nat) (h : 16 ≤ index) : toneRow c index = none := by
  simp [toneRow, Nat.not_lt.mpr h]

/-- SELECT's pair is a row's or (0, 0) (R130). -/
theorem Machine.ratePair_of_lt (index : Nat) (h : index < 16) :
    ratePair c index = ((c.tone ⟨index, h⟩).rateLo, (c.tone ⟨index, h⟩).rateHi) := by
  simp [ratePair, toneRow_of_lt c index h]

theorem Machine.ratePair_of_ge (index : Nat) (h : 16 ≤ index) : ratePair c index = (0, 0) := by
  simp [ratePair, toneRow_of_ge c index h]

/-- LOOKUP's word is a row's or the empty result (R133). -/
theorem Machine.lookupWord_of_lt (index : Nat) (h : index < 16) :
    lookupWord c index = foundWord (c.tone ⟨index, h⟩) := by
  simp [lookupWord, toneRow_of_lt c index h]

theorem Machine.lookupWord_of_ge (index : Nat) (h : 16 ≤ index) : lookupWord c index = 0 := by
  simp [lookupWord, toneRow_of_ge c index h]

namespace Machine

/-- The response word of a row as a number: its four fields in their places (R76). -/
theorem foundWord_toNat (t : Tone) : (foundWord t).toNat =
    2 ^ 40 + 2 ^ 32 * t.symbol.toNat + 2 ^ 16 * t.lowHz.toNat + t.highHz.toNat := by
  have h1 := t.symbol.isLt
  have h2 := t.lowHz.isLt
  have h3 := t.highHz.isLt
  have e : foundWord t = (1#1 ++ t.symbol ++ t.lowHz ++ t.highHz : BitVec (1 + 8 + 16 + 16)) := rfl
  rw [e, BitVec.toNat_append, BitVec.toNat_append, BitVec.toNat_append]
  rw [Nat.shiftLeft_eq, Nat.shiftLeft_eq, Nat.shiftLeft_eq]
  simp only [BitVec.toNat_ofNat]
  rw [show 1 % 2 ^ 1 * 2 ^ 8 = 2 ^ 8 * 1 by norm_num, ← Nat.two_pow_add_eq_or_of_lt h1]
  rw [Nat.mul_comm (2 ^ 8 * 1 + _) (2 ^ 16), ← Nat.two_pow_add_eq_or_of_lt h2, Nat.mul_comm _ (2 ^ 16),
    ← Nat.two_pow_add_eq_or_of_lt h3]
  omega

/-- The four fields of a row's response word read back as what was put in (R76). -/
theorem foundWord_fields (t : Tone) : respFound (foundWord t) = true ∧ respSymbol (foundWord t) = t.symbol ∧
    respLowHz (foundWord t) = t.lowHz ∧ respHighHz (foundWord t) = t.highHz := by
  have h1 := t.symbol.isLt
  have h2 := t.lowHz.isLt
  have h3 := t.highHz.isLt
  have hw := foundWord_toNat t
  refine ⟨?_, ?_, ?_, ?_⟩
  · rw [respFound, BitVec.getLsbD, Nat.testBit_eq_decide_div_mod_eq, hw]
    simp only [decide_eq_true_eq]
    omega
  all_goals
    apply BitVec.eq_of_toNat_eq
    simp only [respSymbol, respLowHz, respHighHz, BitVec.extractLsb'_toNat, Nat.shiftRight_eq_div_pow, hw]
    omega

end Machine

end Sys2Proof
end

