-- ==== Sys2Proof/Laws/Decode.lean ====
section
/-! SUPPORT. The decoder by cases of the word (30_encoding.md R71, R75). -/

namespace Sys2Proof

/-- No word matches two rows of the opcode map: where both masks look, the patterns differ (R71). -/
theorem opcodeRows_disjoint :
    opcodeRows.Pairwise fun a b => a.pattern &&& b.mask ≠ b.pattern &&& a.mask := by decide

theorem opField_toNat (w : Word) : (opField w).toNat = w.toNat / 4096 := by
  have := w.isLt
  simp only [opField, BitVec.extractLsb'_toNat, Nat.shiftRight_eq_div_pow]
  omega

theorem zField_toNat (w : Word) : (zField w).toNat = w.toNat / 256 % 16 := by
  simp only [zField, BitVec.extractLsb'_toNat, Nat.shiftRight_eq_div_pow]

theorem argField_toNat (w : Word) : (argField w).toNat = w.toNat % 256 := by
  simp [argField, BitVec.extractLsb'_toNat]

/-- A whole-word mask tests the whole word. -/
theorem mask_all_iff (w : Word) (p : Word) : w &&& 0xFFFF = p ↔ w.toNat = p.toNat := by
  have h : w &&& 0xFFFF = w := by
    apply BitVec.eq_of_toNat_eq
    have := w.isLt
    rw [BitVec.toNat_and]
    exact Nat.and_two_pow_sub_one_of_lt_two_pow (n := 16) this
  rw [h]
  exact ⟨fun e => e ▸ rfl, BitVec.eq_of_toNat_eq⟩

/-- Masking with 0xFF00 clears the low byte. -/
theorem and_highByte_toNat (w : Word) : (w &&& 0xFF00#16).toNat = 256 * (w.toNat / 256) := by
  have hbits : ∀ i : Fin 16, (0xFF00#16).getLsbD i = decide (8 ≤ i.val) := by decide
  have hsplit : w &&& 0xFF00#16 = (w >>> 8) <<< 8 := by
    apply BitVec.eq_of_getLsbD_eq
    intro i hi
    rw [BitVec.getLsbD_and, hbits ⟨i, hi⟩, BitVec.getLsbD_shiftLeft, BitVec.getLsbD_ushiftRight]
    by_cases h8 : 8 ≤ i
    · simp [h8, hi, Nat.not_lt.mpr h8]
    · simp [h8, Nat.not_le.mp h8]
  have := w.isLt
  rw [hsplit]
  simp only [BitVec.toNat_shiftLeft, BitVec.toNat_ushiftRight, Nat.shiftRight_eq_div_pow, Nat.shiftLeft_eq]
  omega

/-- The mask 0xFF00 looks at the high byte. -/
theorem mask_high_iff (w : Word) (k : Nat) (hk : k < 256) :
    w &&& 0xFF00#16 = BitVec.ofNat 16 (256 * k) ↔ w.toNat / 256 = k := by
  rw [← BitVec.toNat_inj, and_highByte_toNat, BitVec.toNat_ofNat]
  have := w.isLt
  omega

/-- The decoder as a case distinction on the word as a number. -/
theorem decode_eq (w : Word) : decode w =
    if w.toNat = 0x0000 then .ok .nop
    else if w.toNat = 0x1000 then .ok .start
    else if w.toNat = 0x2000 then .ok .stop
    else if w.toNat / 256 = 0x30 then .ok (.select (w.toNat % 256))
    else if w.toNat / 256 = 0x40 then .ok (.lookup (w.toNat % 256))
    else .error (illegalReason w) := by
  have h0 := mask_all_iff w 0x0000
  have h1 := mask_all_iff w 0x1000
  have h2 := mask_all_iff w 0x2000
  have h3 := mask_high_iff w 0x30 (by omega)
  have h4 := mask_high_iff w 0x40 (by omega)
  simp only [decode, opcodeRows, List.find?, OpcodeRow.selects, argField_toNat]
  norm_num at h0 h1 h2 h3 h4 ⊢
  simp only [h0, h1, h2]
  split_ifs <;> simp_all

end Sys2Proof
end

