-- ==== Sys2Proof/Laws/State.lean ====
section
/-! SUPPORT. One lemma for each field of each update of the registers and of the state, so that no proof unfolds a
record update. -/

namespace Sys2Proof.Machine

@[simp] theorem setPeriod_accLo (r : Regs) (p : Word) : (r.setPeriod p).accLo = r.accLo := rfl
@[simp] theorem setPeriod_accHi (r : Regs) (p : Word) : (r.setPeriod p).accHi = r.accHi := rfl
@[simp] theorem setPeriod_rateLo (r : Regs) (p : Word) : (r.setPeriod p).rateLo = r.rateLo := rfl
@[simp] theorem setPeriod_rateHi (r : Regs) (p : Word) : (r.setPeriod p).rateHi = r.rateHi := rfl
@[simp] theorem setPeriod_top (r : Regs) (p : Word) : (r.setPeriod p).top = p := rfl
@[simp] theorem setPeriod_cmp (r : Regs) (p : Word) : (r.setPeriod p).cmp = BitVec.ofNat 16 (p.toNat / 2) := rfl
@[simp] theorem setPeriod_pend (r : Regs) (p : Word) : (r.setPeriod p).pend = r.pend := rfl
@[simp] theorem setPeriod_cnt (r : Regs) (p : Word) : (r.setPeriod p).cnt = r.cnt := rfl
@[simp] theorem setPeriod_ctrl (r : Regs) (p : Word) : (r.setPeriod p).ctrl = r.ctrl := rfl

@[simp] theorem commit_accLo (r : Regs) : (r.commit).accLo = r.accLo := rfl
@[simp] theorem commit_accHi (r : Regs) : (r.commit).accHi = r.accHi := rfl
@[simp] theorem commit_rateLo (r : Regs) : (r.commit).rateLo = r.rateLo := rfl
@[simp] theorem commit_rateHi (r : Regs) : (r.commit).rateHi = r.rateHi := rfl
@[simp] theorem commit_top (r : Regs) : (r.commit).top = r.pend := rfl
@[simp] theorem commit_cmp (r : Regs) : (r.commit).cmp = BitVec.ofNat 16 (r.pend.toNat / 2) := rfl
@[simp] theorem commit_pend (r : Regs) : (r.commit).pend = r.pend := rfl
@[simp] theorem commit_cnt (r : Regs) : (r.commit).cnt = r.cnt := rfl
@[simp] theorem commit_ctrl (r : Regs) : (r.commit).ctrl = r.ctrl := rfl

@[simp] theorem advancePhases_accLo (r : Regs) :
    (r.advancePhases).accLo = advance r.accLo (phaseStep r.top r.rateLo) := rfl
@[simp] theorem advancePhases_accHi (r : Regs) :
    (r.advancePhases).accHi = advance r.accHi (phaseStep r.top r.rateHi) := rfl
@[simp] theorem advancePhases_rateLo (r : Regs) : (r.advancePhases).rateLo = r.rateLo := rfl
@[simp] theorem advancePhases_rateHi (r : Regs) : (r.advancePhases).rateHi = r.rateHi := rfl
@[simp] theorem advancePhases_top (r : Regs) : (r.advancePhases).top = r.top := rfl
@[simp] theorem advancePhases_cmp (r : Regs) : (r.advancePhases).cmp = r.cmp := rfl
@[simp] theorem advancePhases_pend (r : Regs) : (r.advancePhases).pend = r.pend := rfl
@[simp] theorem advancePhases_cnt (r : Regs) : (r.advancePhases).cnt = r.cnt := rfl
@[simp] theorem advancePhases_ctrl (r : Regs) : (r.advancePhases).ctrl = r.ctrl := rfl

@[simp] theorem stage_accLo (c : Config) (r : Regs) : (r.stage c).accLo = r.accLo := rfl
@[simp] theorem stage_accHi (c : Config) (r : Regs) : (r.stage c).accHi = r.accHi := rfl
@[simp] theorem stage_rateLo (c : Config) (r : Regs) : (r.stage c).rateLo = r.rateLo := rfl
@[simp] theorem stage_rateHi (c : Config) (r : Regs) : (r.stage c).rateHi = r.rateHi := rfl
@[simp] theorem stage_top (c : Config) (r : Regs) : (r.stage c).top = r.top := rfl
@[simp] theorem stage_cmp (c : Config) (r : Regs) : (r.stage c).cmp = r.cmp := rfl
@[simp] theorem stage_pend (c : Config) (r : Regs) : (r.stage c).pend = stagedPeriod c (r.deviation c) := rfl
@[simp] theorem stage_cnt (c : Config) (r : Regs) : (r.stage c).cnt = r.cnt := rfl
@[simp] theorem stage_ctrl (c : Config) (r : Regs) : (r.stage c).ctrl = r.ctrl := rfl

@[simp] theorem cycle_accLo (c : Config) (r : Regs) :
    (r.cycle c).accLo = advance r.accLo (phaseStep r.pend r.rateLo) := rfl
@[simp] theorem cycle_accHi (c : Config) (r : Regs) :
    (r.cycle c).accHi = advance r.accHi (phaseStep r.pend r.rateHi) := rfl
@[simp] theorem cycle_rateLo (c : Config) (r : Regs) : (r.cycle c).rateLo = r.rateLo := rfl
@[simp] theorem cycle_rateHi (c : Config) (r : Regs) : (r.cycle c).rateHi = r.rateHi := rfl
@[simp] theorem cycle_top (c : Config) (r : Regs) : (r.cycle c).top = r.pend := rfl
@[simp] theorem cycle_cmp (c : Config) (r : Regs) : (r.cycle c).cmp = BitVec.ofNat 16 (r.pend.toNat / 2) := rfl
@[simp] theorem cycle_pend (c : Config) (r : Regs) :
    (r.cycle c).pend = stagedPeriod c (r.commit.advancePhases.deviation c) := rfl
@[simp] theorem cycle_cnt (c : Config) (r : Regs) : (r.cycle c).cnt = r.cnt := rfl
@[simp] theorem cycle_ctrl (c : Config) (r : Regs) : (r.cycle c).ctrl = r.ctrl := rfl

@[simp] theorem start_accLo (c : Config) (r : Regs) : (r.start c).accLo = r.accLo := rfl
@[simp] theorem start_accHi (c : Config) (r : Regs) : (r.start c).accHi = r.accHi := rfl
@[simp] theorem start_rateLo (c : Config) (r : Regs) : (r.start c).rateLo = r.rateLo := rfl
@[simp] theorem start_rateHi (c : Config) (r : Regs) : (r.start c).rateHi = r.rateHi := rfl
@[simp] theorem start_top (c : Config) (r : Regs) : (r.start c).top = c.nominalWord := rfl
@[simp] theorem start_cmp (c : Config) (r : Regs) : (r.start c).cmp = BitVec.ofNat 16 (c.nominalWord.toNat / 2) := rfl
@[simp] theorem start_pend (c : Config) (r : Regs) : (r.start c).pend = r.pend := rfl
@[simp] theorem start_cnt (c : Config) (r : Regs) : (r.start c).cnt = 0 := rfl
@[simp] theorem start_ctrl (c : Config) (r : Regs) :
    (r.start c).ctrl = { run := true, ie := true, oe := true, cfg := true } := rfl

@[simp] theorem stop_accLo (r : Regs) : (r.stop).accLo = r.accLo := rfl
@[simp] theorem stop_accHi (r : Regs) : (r.stop).accHi = r.accHi := rfl
@[simp] theorem stop_rateLo (r : Regs) : (r.stop).rateLo = r.rateLo := rfl
@[simp] theorem stop_rateHi (r : Regs) : (r.stop).rateHi = r.rateHi := rfl
@[simp] theorem stop_top (r : Regs) : (r.stop).top = r.top := rfl
@[simp] theorem stop_cmp (r : Regs) : (r.stop).cmp = r.cmp := rfl
@[simp] theorem stop_pend (r : Regs) : (r.stop).pend = r.pend := rfl
@[simp] theorem stop_cnt (r : Regs) : (r.stop).cnt = r.cnt := rfl
@[simp] theorem stop_ctrl (r : Regs) : (r.stop).ctrl = { r.ctrl with run := false } := rfl

@[simp] theorem select_accLo (r : Regs) (p : Word × Word) : (r.select p).accLo = r.accLo := rfl
@[simp] theorem select_accHi (r : Regs) (p : Word × Word) : (r.select p).accHi = r.accHi := rfl
@[simp] theorem select_rateLo (r : Regs) (p : Word × Word) : (r.select p).rateLo = p.1 := rfl
@[simp] theorem select_rateHi (r : Regs) (p : Word × Word) : (r.select p).rateHi = p.2 := rfl
@[simp] theorem select_top (r : Regs) (p : Word × Word) : (r.select p).top = r.top := rfl
@[simp] theorem select_cmp (r : Regs) (p : Word × Word) : (r.select p).cmp = r.cmp := rfl
@[simp] theorem select_pend (r : Regs) (p : Word × Word) : (r.select p).pend = r.pend := rfl
@[simp] theorem select_cnt (r : Regs) (p : Word × Word) : (r.select p).cnt = r.cnt := rfl
@[simp] theorem select_ctrl (r : Regs) (p : Word × Word) : (r.select p).ctrl = r.ctrl := rfl

@[simp] theorem regs_resetOn_accLo (c : Config) : (Regs.resetOn c).accLo = 0 := rfl
@[simp] theorem regs_resetOn_accHi (c : Config) : (Regs.resetOn c).accHi = 0 := rfl
@[simp] theorem regs_resetOn_rateLo (c : Config) : (Regs.resetOn c).rateLo = 0 := rfl
@[simp] theorem regs_resetOn_rateHi (c : Config) : (Regs.resetOn c).rateHi = 0 := rfl
@[simp] theorem regs_resetOn_top (c : Config) : (Regs.resetOn c).top = c.nominalWord := rfl
@[simp] theorem regs_resetOn_cmp (c : Config) : (Regs.resetOn c).cmp = BitVec.ofNat 16 (c.nominal / 2) := rfl
@[simp] theorem regs_resetOn_pend (c : Config) : (Regs.resetOn c).pend = c.nominalWord := rfl
@[simp] theorem regs_resetOn_cnt (c : Config) : (Regs.resetOn c).cnt = 0 := rfl
@[simp] theorem regs_resetOn_ctrl (c : Config) :
    (Regs.resetOn c).ctrl = { run := false, ie := false, oe := false, cfg := false } := rfl

@[simp] theorem finish_regs (s : State) (r : Regs) : (s.finish r).regs = r := rfl
@[simp] theorem finish_rst (s : State) (r : Regs) : (s.finish r).rst = s.rst := rfl
@[simp] theorem finish_events (s : State) (r : Regs) : (s.finish r).events = s.events := rfl
@[simp] theorem finish_resp (s : State) (r : Regs) : (s.finish r).resp = none := rfl

@[simp] theorem answer_regs (s : State) (w : RespWord) : (s.answer w).regs = s.regs := rfl
@[simp] theorem answer_rst (s : State) (w : RespWord) : (s.answer w).rst = s.rst := rfl
@[simp] theorem answer_events (s : State) (w : RespWord) : (s.answer w).events = s.events := rfl
@[simp] theorem answer_resp (s : State) (w : RespWord) : (s.answer w).resp = some w := rfl

@[simp] theorem driveReset_regs (c : Config) (s : State) (b : Bool) :
    (s.driveReset c b).regs = if b then Regs.resetOn c else s.regs := rfl
@[simp] theorem driveReset_rst (c : Config) (s : State) (b : Bool) : (s.driveReset c b).rst = b := rfl
@[simp] theorem driveReset_events (c : Config) (s : State) (b : Bool) : (s.driveReset c b).events = s.events := rfl
@[simp] theorem driveReset_resp (c : Config) (s : State) (b : Bool) : (s.driveReset c b).resp = none := rfl

@[simp] theorem tickState_regs (c : Config) (s : State) :
    (s.tick c).regs = if s.rst then s.regs else s.regs.tick c := rfl
@[simp] theorem tickState_rst (c : Config) (s : State) : (s.tick c).rst = s.rst := rfl
@[simp] theorem tickState_events (c : Config) (s : State) : (s.tick c).events = s.events := rfl
@[simp] theorem tickState_resp (c : Config) (s : State) : (s.tick c).resp = none := rfl

@[simp] theorem presentNext_regs (s : State) (w : Word) : (s.presentNext w).regs = s.regs := rfl
@[simp] theorem presentNext_rst (s : State) (w : Word) : (s.presentNext w).rst = false := rfl
@[simp] theorem presentNext_events (s : State) (w : Word) : (s.presentNext w).events = .cmd w :: s.events := rfl
@[simp] theorem presentNext_resp (s : State) (w : Word) : (s.presentNext w).resp = s.resp := rfl

@[simp] theorem stateResetOn_regs (c : Config) : (State.resetOn c).regs = Regs.resetOn c := rfl
@[simp] theorem stateResetOn_rst (c : Config) : (State.resetOn c).rst = false := rfl
@[simp] theorem stateResetOn_events (c : Config) : (State.resetOn c).events = [] := rfl
@[simp] theorem stateResetOn_resp (c : Config) : (State.resetOn c).resp = none := rfl

end Sys2Proof.Machine
end

