-- ==== Sys2Proof/Laws/Engine.lean ====
section
/-! SUPPORT. The engine's arithmetic: one lemma for each of its operations (40_dds_engine.md R97, R98). -/

namespace Sys2Proof.Machine

theorem advance_toNat (acc : Word) (inc : Nat) : (advance acc inc).toNat = (acc.toNat + inc) % 65536 := by
  simp [advance]

theorem advance_zero (acc : Word) : advance acc 0 = acc := by
  apply BitVec.eq_of_toNat_eq
  have := acc.isLt
  rw [advance_toNat]
  omega

@[simp] theorem phaseStep_rate_zero (top : Word) : phaseStep top 0#16 = 0 := by simp [phaseStep]

/-- The phase is the accumulator shifted right by 8 (R98). -/
theorem phaseOf_toNat (acc : Word) : (phaseOf acc).toNat = acc.toNat / 256 := by
  have := acc.isLt
  simp only [phaseOf, BitVec.extractLsb'_toNat, Nat.shiftRight_eq_div_pow]
  omega

theorem sampleAt_bounded (c : Config) (acc : Word) : (sampleAt c acc).natAbs ≤ c.sineAmp :=
  c.sine_bounded (phaseOf acc)

/-- On the 1.5x branch the magnitude is exactly one and a half times, rounded down (R94). -/
theorem equalize_false_natAbs (s : Int) : (equalize false s).natAbs = s.natAbs + s.natAbs / 2 := by
  unfold equalize
  rw [if_neg (by decide)]
  rcases le_total 0 s with h | h
  · rw [Int.tdiv_eq_ediv_of_nonneg h]; omega
  · obtain ⟨t, rfl⟩ : ∃ t, s = -t := ⟨-s, by omega⟩
    rw [Int.neg_tdiv, Int.tdiv_eq_ediv_of_nonneg (by omega)]; omega

/-- On either branch the equalized sample stays within twice the amplitude (R97). -/
theorem equalize_bounded (b : Bool) (s : Int) : (equalize b s).natAbs ≤ 2 * s.natAbs := by
  cases b
  · rw [equalize_false_natAbs]; omega
  · simp [equalize, Int.natAbs_mul]

theorem blend_natAbs (sLo eHi : Int) : (blend sLo eHi).natAbs = (sLo + eHi).natAbs / 32 :=
  Int.natAbs_tdiv (sLo + eHi) 32

/-- A deviation within `D_MAX` is staged without truncation (R97). -/
theorem stagedPeriod_toNat (c : Config) (q : Int) (h : q.natAbs ≤ c.dMax) :
    ((stagedPeriod c q).toNat : Int) = c.nominal + q := by
  have hlow := c.nominal_low
  have hhigh := c.nominal_high
  simp only [stagedPeriod, BitVec.toNat_ofInt]
  omega

/-- The deviation never exceeds `D_MAX`, whatever the registers (R97, R100). -/
theorem deviation_le_dMax (c : Config) (r : Regs) : (r.deviation c).natAbs ≤ c.dMax := by
  have hLo := sampleAt_bounded c r.accLo
  have hHi := sampleAt_bounded c r.accHi
  have hEq := equalize_bounded r.doublesHigh (sampleAt c r.accHi)
  rw [Regs.deviation, blend_natAbs, c.dMax_eq]
  apply Nat.div_le_div_right
  omega

/-- The duty point of a period fits its register (R25). -/
theorem half_toNat (period : Word) : (BitVec.ofNat 16 (period.toNat / 2)).toNat = period.toNat / 2 := by
  have := period.isLt
  rw [BitVec.toNat_ofNat]
  omega

/-- CYCLE stages `NOMINAL` plus the deviation, with no truncation (R90, R97). -/
theorem cycle_pend_toNat (c : Config) (r : Regs) :
    ((Regs.cycle c r).pend.toNat : Int) = c.nominal + r.commit.advancePhases.deviation c := by
  rw [cycle_pend, stagedPeriod_toNat c _ (deviation_le_dMax c _)]

/-- No number of CYCLEs changes the rates (R105). -/
theorem iterate_cycle_rates (c : Config) (r : Regs) (n : Nat) :
    ((Regs.cycle c)^[n] r).rateLo = r.rateLo ∧ ((Regs.cycle c)^[n] r).rateHi = r.rateHi := by
  induction n with
  | zero => exact ⟨rfl, rfl⟩
  | succ n ih => rw [Function.iterate_succ_apply']; exact ih

/-- CYCLE in silence: the phases stay, so it only commits and stages (R90 (a), R103). -/
theorem cycle_of_silent (c : Config) (r : Regs) (hLo : r.rateLo = 0) (hHi : r.rateHi = 0) :
    Regs.cycle c r =
      { r with
        top := r.pend
        cmp := BitVec.ofNat 16 (r.pend.toNat / 2)
        pend := stagedPeriod c (r.deviation c) } := by
  have hphases : r.commit.advancePhases = r.commit := by
    have haccLo : advance r.accLo (phaseStep r.pend r.rateLo) = r.accLo := by rw [hLo]; simp [advance_zero]
    have haccHi : advance r.accHi (phaseStep r.pend r.rateHi) = r.accHi := by rw [hHi]; simp [advance_zero]
    simp only [Regs.advancePhases, commit_accLo, commit_accHi, commit_top, commit_rateLo, commit_rateHi, haccLo, haccHi]
    rfl
  rw [Regs.cycle, hphases]
  rfl

end Sys2Proof.Machine
end

