-- ==== Sys2Proof/Laws/PerInstr.lean ====
section
/-! SUPPORT. What holds of every command as syntax, one lemma a constructor. -/

namespace Sys2Proof.Laws.ReservedFieldIsZero

/-- Every well-formed command is encoded with the reserved field Z zero (R70, R73). -/
def Statement (i : Instr) : Prop := i.WellFormed → zField (encode i) = 0

theorem nop : Statement .nop := fun _ => by decide

theorem start : Statement .start := fun _ => by decide

theorem stop : Statement .stop := fun _ => by decide

theorem zField_of_operand (base : Word) (index : Nat) (hbase : base.toNat % 4096 = 0) (h : index < 256) :
    zField (base + BitVec.ofNat 16 index) = 0 := by
  apply BitVec.eq_of_toNat_eq
  have := base.isLt
  rw [zField_toNat, BitVec.toNat_add, BitVec.toNat_ofNat]
  simp only [BitVec.ofNat_eq_ofNat, BitVec.toNat_ofNat]
  omega

theorem select (index : Nat) : Statement (.select index) := fun h =>
  zField_of_operand 0x3000 index (by decide) (by simpa [Instr.WellFormed, Instr.wellFormed] using h)

theorem lookup (index : Nat) : Statement (.lookup index) := fun h =>
  zField_of_operand 0x4000 index (by decide) (by simpa [Instr.WellFormed, Instr.wellFormed] using h)

end Sys2Proof.Laws.ReservedFieldIsZero
end

