-- ==== Sys2Proof/Laws/Step.lean ====
section
/-! SUPPORT. What one step can do, said once: the step by its next event, and each command by its outcome. -/

namespace Sys2Proof.Machine

/-- The machine's step is the step at the machine's configuration (R10, R38). -/
theorem step_eq_stepOn (s : State) : step s = stepOn Config.machine s := by
  have h : exec = execOn Config.machine := by
    funext i s
    cases i <;> rfl
  rw [step, stepOn, h]

/-- With no event left a step is a tick (log entry 3). -/
theorem step_of_no_event (s : State) (h : s.events = []) : step s = .next (s.tick Config.machine) := by
  simp only [step, serveNext, h]

theorem step_of_tick (s : State) (rest : List Event) (h : s.events = .tick :: rest) :
    step s = .next (State.tick Config.machine { s with events := rest }) := by
  simp only [step, serveNext, h, serveEvent]

theorem step_of_rst (s : State) (b : Bool) (rest : List Event) (h : s.events = .rst b :: rest) :
    step s = .next (State.driveReset Config.machine { s with events := rest } b) := by
  simp only [step, serveNext, h, serveEvent]

/-- While reset is asserted a command word is ignored, be it legal or not (R160). -/
theorem step_of_cmd_in_reset (s : State) (w : Word) (rest : List Event) (h : s.events = .cmd w :: rest)
    (hr : s.rst = true) : step s = .next (State.finish { s with events := rest } s.regs) := by
  simp only [step, serveNext, h, serveEvent, serveCommand, hr, if_true]

theorem step_of_cmd (s : State) (w : Word) (rest : List Event) (h : s.events = .cmd w :: rest)
    (hr : s.rst = false) : step s =
      match decode w with
      | .ok i => exec i { s with events := rest }
      | .error _ => .refused .illegalCommand := by
  cases hd : decode w <;> simp [step, serveNext, h, serveEvent, serveCommand, hr, hd]

/-- Everything a command can do (R120 to R134): leave the registers at what its rule gives, and respond if it is
LOOKUP. -/
theorem exec_next_cases (i : Instr) (s t : State) (h : exec i s = .next t) :
    (i = .nop ∧ t = s.finish s.regs) ∨
    (i = .start ∧ s.regs.ctrl.run = false ∧ t = s.finish (s.regs.start Config.machine)) ∨
    (i = .stop ∧ t = s.finish s.regs.stop) ∨
    (∃ index, i = .select index ∧ t = s.finish (s.regs.select (ratePair Config.machine index))) ∨
    (∃ index, i = .lookup index ∧ t = s.answer (lookupWord Config.machine index)) := by
  cases i with
  | nop => exact .inl ⟨rfl, by simpa [exec, execNop] using h.symm⟩
  | start =>
    simp only [exec, execStart, startOn] at h
    split at h
    next => cases h
    next hoff => exact .inr (.inl ⟨rfl, by simpa using hoff, by simpa using h.symm⟩)
  | stop => exact .inr (.inr (.inl ⟨rfl, by simpa [exec, execStop] using h.symm⟩))
  | select index =>
    exact .inr (.inr (.inr (.inl ⟨index, rfl, by simpa [exec, execSelect, selectOn] using h.symm⟩)))
  | lookup index =>
    exact .inr (.inr (.inr (.inr ⟨index, rfl, by simpa [exec, execLookup, lookupOn] using h.symm⟩)))

/-- Everything a step can do when it answers a next state: a tick, a reset level, an ignored word, or a command. -/
theorem step_next_cases (s t : State) (h : step s = .next t) :
    (s.events = [] ∧ t = s.tick Config.machine) ∨
    (∃ rest, s.events = .tick :: rest ∧ t = State.tick Config.machine { s with events := rest }) ∨
    (∃ b rest, s.events = .rst b :: rest ∧ t = State.driveReset Config.machine { s with events := rest } b) ∨
    (∃ w rest, s.events = .cmd w :: rest ∧ s.rst = true ∧ t = State.finish { s with events := rest } s.regs) ∨
    (∃ w rest i, s.events = .cmd w :: rest ∧ s.rst = false ∧ decode w = .ok i ∧
      exec i { s with events := rest } = .next t) := by
  match he : s.events with
  | [] => exact .inl ⟨rfl, by simpa [step_of_no_event s he] using h.symm⟩
  | .tick :: rest => exact .inr (.inl ⟨rest, rfl, by simpa [step_of_tick s rest he] using h.symm⟩)
  | .rst b :: rest => exact .inr (.inr (.inl ⟨b, rest, rfl, by simpa [step_of_rst s b rest he] using h.symm⟩))
  | .cmd w :: rest =>
    by_cases hr : s.rst = true
    · exact .inr (.inr (.inr (.inl
        ⟨w, rest, rfl, hr, by simpa [step_of_cmd_in_reset s w rest he hr] using h.symm⟩)))
    · have hr : s.rst = false := by simpa using hr
      rw [step_of_cmd s w rest he hr] at h
      cases hd : decode w with
      | ok i => exact .inr (.inr (.inr (.inr ⟨w, rest, i, rfl, hr, hd, by simpa [hd] using h⟩)))
      | error e => simp [hd] at h

/-- What a tick can do to the registers (R110, R111, R113). -/
theorem tick_cases (c : Config) (r : Regs) :
    (r.ctrl.run = false ∧ r.tick c = r) ∨
    (r.ctrl.run = true ∧ r.cnt.toNat + 1 < r.top.toNat ∧
      r.tick c = { r with cnt := BitVec.ofNat 16 (r.cnt.toNat + 1) }) ∨
    (r.ctrl.run = true ∧ r.top.toNat ≤ r.cnt.toNat + 1 ∧ r.ctrl.ie = false ∧ r.tick c = { r with cnt := 0 }) ∨
    (r.ctrl.run = true ∧ r.top.toNat ≤ r.cnt.toNat + 1 ∧ r.ctrl.ie = true ∧
      r.tick c = Regs.cycle c { r with cnt := 0 }) := by
  cases hrun : r.ctrl.run with
  | false => exact .inl ⟨rfl, by simp [Regs.tick, hrun]⟩
  | true =>
    by_cases hb : r.top.toNat ≤ r.cnt.toNat + 1
    · cases hie : r.ctrl.ie with
      | false =>
        exact .inr (.inr (.inl ⟨rfl, hb, rfl, by simp [Regs.tick, Regs.boundary, Regs.atBoundary, hrun, hb, hie]⟩))
      | true =>
        exact .inr (.inr (.inr ⟨rfl, hb, rfl, by simp [Regs.tick, Regs.boundary, Regs.atBoundary, hrun, hb, hie]⟩))
    · exact .inr (.inl ⟨rfl, by omega, by simp [Regs.tick, Regs.atBoundary, hrun, hb]⟩)

/-- No tick changes the rate pair or CTRL (R32). -/
theorem tick_frame (c : Config) (r : Regs) :
    (r.tick c).rateLo = r.rateLo ∧ (r.tick c).rateHi = r.rateHi ∧ (r.tick c).ctrl = r.ctrl := by
  obtain ⟨_, h⟩ | ⟨_, _, h⟩ | ⟨_, _, _, h⟩ | ⟨_, _, _, h⟩ := tick_cases c r <;> rw [h] <;> simp

/-- With the carrier OFF any number of ticks leaves the registers as they are (R110, R154). -/
theorem ticks_while_off (c : Config) (n : Nat) (r : Regs) (h : r.ctrl.run = false) : Regs.ticks c n r = r := by
  induction n with
  | zero => rfl
  | succ n ih =>
    rw [Regs.ticks, show r.tick c = r by simp [Regs.tick, h]]
    exact ih

/-- A presented word that decodes runs as the very next step (log entry 2). -/
theorem step_presentNext (s : State) (w : Word) (i : Instr) (h : decode w = .ok i) :
    step (s.presentNext w) = exec i { s with rst := false } := by
  rw [step_of_cmd (s.presentNext w) w s.events rfl rfl, h]
  rfl

end Sys2Proof.Machine
end

