-- ==== Sys2Proof/Laws/Run.lean ====
section
/-! SUPPORT. Runs of the machine: how they compose, and what a run of ticks does. -/

namespace Sys2Proof.Machine

theorem run_succ (n : Nat) (s : State) : Host.Core.run core (n + 1) s = match step s with
    | .next t => Host.Core.run core n t
    | .fault r => .fault r
    | .refused r => .refused r := by
  have h : core.step s = step s := rfl
  refine (Host.Core.run.eq_2 core s n).trans ?_
  rw [h]
  cases step s <;> rfl

/-- A run goes on from where its first part has come. -/
theorem run_add (m n : Nat) (s t : State) (h : RunsTo m s t) :
    Host.Core.run core (m + n) s = Host.Core.run core n t := by
  induction m generalizing s with
  | zero =>
    obtain rfl : s = t := Host.Outcome.next.inj h
    rw [Nat.zero_add]
  | succ m ih =>
    rw [RunsTo, run_succ] at h
    rw [Nat.add_right_comm, run_succ]
    cases hs : step s with
    | next u => rw [hs] at h; exact ih u h
    | fault r => cases r
    | refused r => rw [hs] at h; cases h

theorem RunsTo.zero (s : State) : RunsTo 0 s s := rfl

theorem RunsTo.one {s t : State} (h : step s = .next t) : RunsTo 1 s t := by
  rw [RunsTo, run_succ, h]
  rfl

theorem RunsTo.trans {m n : Nat} {s t u : State} (h : RunsTo m s t) (h' : RunsTo n t u) : RunsTo (m + n) s u := by
  rw [RunsTo, run_add m n s t h]
  exact h'

theorem ticks_succ (c : Config) (n : Nat) (r : Regs) : Regs.ticks c (n + 1) r = (Regs.ticks c n r).tick c := by
  induction n generalizing r with
  | zero => rfl
  | succ n ih =>
    rw [Regs.ticks, ih]
    rfl

/-- `WAIT n`: a run of n tick events is n ticks of the registers. -/
theorem runsTo_ticks (n : Nat) (s : State) (rest : List Event) (hr : s.rst = false)
    (he : s.events = List.replicate n .tick ++ rest) :
    ∃ t, RunsTo n s t ∧ t.regs = Regs.ticks Config.machine n s.regs ∧ t.rst = false ∧ t.events = rest := by
  induction n generalizing s with
  | zero => exact ⟨s, RunsTo.zero s, rfl, hr, by simpa using he⟩
  | succ n ih =>
    have hs := step_of_tick s (List.replicate n .tick ++ rest) (by simpa [List.replicate_succ] using he)
    obtain ⟨t, hrun, hregs, hrst, hevents⟩ :=
      ih (State.tick Config.machine { s with events := List.replicate n .tick ++ rest }) (by simpa using hr) rfl
    refine ⟨t, ?_, by simpa [hr, Regs.ticks] using hregs, hrst, hevents⟩
    rw [Nat.add_comm]
    exact (RunsTo.one hs).trans hrun

end Sys2Proof.Machine
end

