-- ==== Sys2Proof/Machine/Assembly.lean ====
section
/-! DEFINITION. The assembler of 30_encoding.md R80 and R81: statements, their events, and their text. -/

namespace Sys2Proof.Machine

/-- One statement (R80) or pseudo-instruction (R81). -/
inductive Stmt where
  | command (i : Instr)
  /-- `WAIT k`: `k` ticks with no command. -/
  | wait (k : Nat)
  /-- `SILENCE`: `SELECT 16`. -/
  | silence
  /-- `RESET`: one reset event. -/
  | reset
deriving DecidableEq, Repr

/-- The events a statement stands for. `RESET` asserts the reset input and releases it (R81, log entry 5). -/
def Stmt.events : Stmt → List Event
  | .command i => [.cmd (encode i)]
  | .wait k => List.replicate k .tick
  | .silence => [.cmd (encode (.select 16))]
  | .reset => [.rst true, .rst false]

/-- A program is a sequence of events (R80). -/
def programEvents (p : List Stmt) : List Event := p.flatMap Stmt.events

/-- The text of a line without its comment: `;` starts one (R80). -/
def dropComment (line : List Char) : List Char := line.takeWhile (· ≠ ';')

/-- The characters that separate an operand from its mnemonic (log entry 19). -/
def isBlank (ch : Char) : Bool := ch = ' ' || ch = '\t' || ch = '\r'

/-- The words of a line, in order. -/
def splitWords : List Char → List (List Char)
  | [] => []
  | ch :: rest =>
    if isBlank ch then splitWords rest
    else match rest, splitWords rest with
      | next :: _, word :: more => if isBlank next then [ch] :: word :: more else (ch :: word) :: more
      | _, ws => [ch] :: ws

/-- The value of a digit in a base of at most 16. -/
def digitValue (base : Nat) (ch : Char) : Option Nat :=
  let n := ch.toNat
  let v := if 48 ≤ n ∧ n ≤ 57 then n - 48 else if 65 ≤ n ∧ n ≤ 70 then n - 55 else if 97 ≤ n ∧ n ≤ 102 then n - 87 else 16
  if v < base then some v else none

/-- The number that digits spell after the digits already read, whose value is `acc`. -/
def readDigits (base : Nat) : List Char → Nat → Option Nat
  | [], acc => some acc
  | ch :: rest, acc =>
    match digitValue base ch with
    | some v => readDigits base rest (base * acc + v)
    | none => none

/-- An operand: decimal, or hexadecimal after `0x` (R80). -/
def readNumber : List Char → Option Nat
  | [] => none
  | '0' :: 'x' :: d :: rest => readDigits 16 (d :: rest) 0
  | d :: rest => readDigits 10 (d :: rest) 0

/-- A statement of a mnemonic alone. -/
def readBare (m : List Char) : Option Stmt :=
  if m = ['N', 'O', 'P'] then some (.command .nop)
  else if m = ['S', 'T', 'A', 'R', 'T'] then some (.command .start)
  else if m = ['S', 'T', 'O', 'P'] then some (.command .stop)
  else if m = ['S', 'I', 'L', 'E', 'N', 'C', 'E'] then some .silence
  else if m = ['R', 'E', 'S', 'E', 'T'] then some .reset
  else none

/-- A statement of a mnemonic and an operand. The index is 0..255 (R80). -/
def readWithOperand (m : List Char) (k : Nat) : Option Stmt :=
  if m = ['W', 'A', 'I', 'T'] then some (.wait k)
  else if m = ['S', 'E', 'L', 'E', 'C', 'T'] then if k < 256 then some (.command (.select k)) else none
  else if m = ['L', 'O', 'O', 'K', 'U', 'P'] then if k < 256 then some (.command (.lookup k)) else none
  else none

/-- The statements of one line: one, or none where the line is empty but for a comment (R80). -/
def readLine (line : List Char) : Option (List Stmt) :=
  match splitWords (dropComment line) with
  | [] => some []
  | [m] => (readBare m).map fun st => [st]
  | [m, operand] => ((readNumber operand).bind (readWithOperand m)).map fun st => [st]
  | _ => none

/-- A program's text, one statement a line (R80). -/
def readProgram : List (List Char) → Option (List Stmt)
  | [] => some []
  | line :: rest =>
    match readLine line, readProgram rest with
    | some here, some later => some (here ++ later)
    | _, _ => none

end Sys2Proof.Machine
end

