-- ==== Sys2Proof/Machine/Observe.lean ====
section
/-! DEFINITION. What can be observed of a run (70_reset_and_hazards.md R175), and the figures of a carrier cycle that the
spec derives from TOP (41_timer_tick.md R115, R116). -/

namespace Sys2Proof.Machine

/-- What the outside sees after an event: the pin and the response port. The registers are not observable (R32, R175). -/
structure Observation where
  out : Bool
  resp : Option RespWord
deriving DecidableEq, Repr

/-- The observation of a state. -/
def State.observe (s : State) : Observation where
  out := s.out
  resp := s.resp

/-- The observations of a run of at most `n` steps, the first of them that of the state it starts in. It ends early where
a step is refused. -/
def trace : Nat → State → List Observation
  | 0, s => [s.observe]
  | n + 1, s => s.observe :: match step s with
    | .next t => trace n t
    | .fault _ => []
    | .refused _ => []

/-- The ticks of a carrier cycle of period `top` for which the pin is high (R115). -/
def highTicks (top : Word) : Nat := top.toNat / 2

/-- The duty of a carrier cycle, 1/2 when the period is even and `(TOP - 1) / (2 * TOP)` when it is odd (R115). -/
def duty (top : Word) : Rat := (highTicks top : Rat) / top.toNat

/-- The carrier's instantaneous frequency in Hz during a cycle of period `top` (R116). -/
def carrierHz (c : Config) (top : Word) : Rat := (c.fClk : Rat) / top.toNat

/-- The largest frequency in Hz that a rate can stand for (R104). -/
def rateHz (c : Config) (rate : Word) : Rat := (rate.toNat : Rat) * c.fClk / (16 * 65536)

end Sys2Proof.Machine
end

