-- ==== Sys2Proof/Tests/Slice0.lean ====
section
/-! SUPPORT. Tests against the spec's own vectors (95_test_vectors.md), and a witness for the hypotheses of every
statement that has some. -/

namespace Sys2Proof.Tests

open Sys2Proof Sys2Proof.Machine

/-! ### Small states -/

/-- CTRL after START. -/
def onCtrl : Ctrl := { run := true, ie := true, oe := true, cfg := true }

/-- CTRL after START and STOP. -/
def stoppedCtrl : Ctrl := { onCtrl with run := false }

/-- Registers of a carrier of period 5 with `cnt` ticks of its cycle gone and a period of 6 staged. -/
def shortRegs (cnt : Word) (k : Ctrl) : Regs where
  accLo := 0
  accHi := 0
  rateLo := 16
  rateHi := 32
  top := 5
  cmp := 2
  pend := 6
  cnt := cnt
  ctrl := k

/-- A state of given registers, out of reset, with events to come. -/
def stateOf (r : Regs) (events : List Event) : State := { regs := r, rst := false, events := events, resp := none }

/-- Registers as a CYCLE vector of the spec gives them (section 3); CNT and CTRL are not read. -/
def cycleRegs (pend accLo accHi rateLo rateHi : Word) : Regs where
  accLo := accLo
  accHi := accHi
  rateLo := rateLo
  rateHi := rateHi
  top := 0
  cmp := 0
  pend := pend
  cnt := 0
  ctrl := onCtrl

/-! ### Well-formedness: the check refuses an index that does not fit its field (R72) -/

theorem test_select_256_is_ill_formed : (Instr.select 256).wellFormed = false := by decide

theorem test_lookup_256_is_ill_formed : (Instr.lookup 256).wellFormed = false := by decide

theorem test_index_255_is_well_formed :
    (Instr.select 255).wellFormed = true ∧ (Instr.lookup 255).wellFormed = true := by decide

/-! ### Decoding: words written out from R71, and the illegal words of section 6 -/

theorem test_decode_nop : decode 0b0000_0000_00000000 = .ok .nop := by decide

theorem test_decode_start : decode 0b0001_0000_00000000 = .ok .start := by decide

theorem test_decode_stop : decode 0b0010_0000_00000000 = .ok .stop := by decide

theorem test_decode_select : decode 0b0011_0000_00001001 = .ok (.select 9) := by decide

theorem test_decode_lookup : decode 0b0100_0000_00010000 = .ok (.lookup 16) := by decide

theorem test_decode_illegal :
    decode 0x0001 = .error .reservedArg ∧ decode 0x3100 = .error .reservedZ ∧ decode 0xFFFF = .error .reservedOp := by
  decide

theorem test_table_word : decodeTableWord 16 0x30FF = some (.select 255) ∧ decodeTableWord 16 0x1001 = none := by decide

/-! ### Commands at REF (section 5), each as one step of the reference machine -/

/-- The reset state at REF with one command word to come. -/
def refWith (r : Regs → Regs) (w : Word) : State := stateOf (r (Regs.resetOn Config.ref)) [.cmd w]

/-- What one step of the reference machine leaves, seen through `f`, if it answers a next state. -/
def after {α : Type} (f : State → α) (s : State) : Option α :=
  match stepOn Config.ref s with
  | .next t => some (f t)
  | .fault _ => none
  | .refused _ => none

theorem test_K1_nop : after (fun t => (t.regs, t.resp)) (refWith id 0x0000) = some (Regs.resetOn Config.ref, none) := by
  decide

theorem test_K2_start :
    after (fun t => (t.regs.ctrl.bits, t.regs.top.toNat, t.regs.cmp.toNat, t.regs.cnt, t.out)) (refWith id 0x1000) =
      some (0b1111, 200, 100, 0, true) := by decide

theorem test_K6_restart_keeps_the_staged_period :
    after (fun t => (t.regs.ctrl.bits, t.regs.top.toNat, t.regs.cnt, t.regs.pend.toNat, t.regs.accLo))
      (stateOf { cycleRegs 205 0x11EC 0x1F1F 91 158 with top := 204, cmp := 102, cnt := 197, ctrl := stoppedCtrl }
        [.cmd 0x1000]) = some (0b1111, 200, 0, 205, 0x11EC) := by decide

theorem test_K4_stop :
    after (fun t => (t.regs.ctrl.bits, t.regs.cnt.toNat, t.out))
      (stateOf { Regs.resetOn Config.ref with cnt := 150, ctrl := onCtrl } [.cmd 0x2000]) = some (0b1110, 150, false) := by
  decide

theorem test_K5_stop_before_start : after (fun t => t.regs.ctrl.bits) (refWith id 0x2000) = some 0b0000 := by decide

theorem test_K7_select_9 : after (fun t => (t.regs.rateLo.toNat, t.regs.rateHi.toNat)) (refWith id 0x3009) =
    some (123, 175) := by decide

theorem test_K8_select_16 :
    after (fun t => (t.regs.rateLo, t.regs.rateHi, t.regs.accLo))
      (refWith (fun r => { r with accLo := 0x1234, rateLo := 123, rateHi := 175 }) 0x3010) = some (0, 0, 0x1234) := by
  decide

theorem test_K10_lookup_15 : after State.resp (refWith id 0x400F) = some (some 0x14403AD0661) := by decide

theorem test_K11_lookup_16 : after State.resp (refWith id 0x4010) = some (some 0) := by decide

/-! ### CYCLE and TICK at REF (sections 3 and 4) -/

/-- The outputs of a CYCLE vector. -/
def cycleOut (r : Regs) : Nat × Nat × Nat × Nat × Nat :=
  let t := Regs.cycle Config.ref r
  (t.top.toNat, t.cmp.toNat, t.accLo.toNat, t.accHi.toNat, t.pend.toNat)

theorem test_V3_both_accumulators_wrap :
    cycleOut (cycleRegs 200 0xFF00 0xFFFF 91 158) = (200, 100, 0x0371, 0x07B6, 201) := by decide

theorem test_V5_largest_negative_blend :
    cycleOut (cycleRegs 200 0xBB8F 0xB58D 91 214) = (200, 100, 0xC000, 0xC000, 189) := by decide

theorem test_V6_one_and_a_half_truncates :
    cycleOut (cycleRegs 200 0xBB8F 0xB849 91 158) = (200, 100, 0xC000, 0xC000, 191) := by decide

theorem test_V9_exactly_twice_is_not_doubled :
    cycleOut (cycleRegs 200 0x0000 0x363C 100 200) = (200, 100, 0x04E2, 0x4000, 206) := by decide

theorem test_V13_longest_period :
    cycleOut (cycleRegs 211 0x1234 0xABCD 123 214) = (211, 105, 0x188A, 0xB6D3, 197) := by decide

theorem test_T6_boundary_runs_the_engine :
    after (fun t => (t.regs.cnt, t.regs.top.toNat, t.regs.cmp.toNat, t.regs.pend.toNat, t.out))
      (stateOf { cycleRegs 201 0 0 0 0 with top := 200, cmp := 100, cnt := 199 } [.tick]) =
      some (0, 201, 100, 200, true) := by decide

theorem test_T7_unarmed_boundary :
    after (fun t => (t.regs.cnt, t.regs.top.toNat, t.regs.pend.toNat))
      (stateOf { cycleRegs 201 0 0 0 0 with top := 200, cnt := 199, ctrl := { onCtrl with ie := false } } [.tick]) =
      some (0, 200, 201) := by decide

/-! ### Tables: R53, R57 and the rounding corners of section 2 -/

theorem test_sineRef_antisymmetric : sineRefSecondHalf = sineRefFirstHalf.map fun v => -v := by
  simp [sineRefSecondHalf, sineRefFirstHalf]

theorem test_sineRef_peaks : sineRef 0 = 0 ∧ sineRef 64 = 127 ∧ sineRef 192 = -127 := ⟨rfl, rfl, rfl⟩

theorem test_tone_12 : Config.ref.tone 12 =
    { symbol := 0x41, lowHz := 697, highHz := 1633, rateLo := 91, rateHi := 214 } := by decide

theorem test_rate_corners : rateOf 16000000 697 = 46 ∧ rateOf 1000000 697 = 731 ∧ rateOf 1000000 1633 = 1712 := by decide

/-- With F_CLK = 1 MHz a NOMINAL of 28 leaves no headroom (section 2). -/
theorem test_no_headroom_is_refused :
    boot { Params.ref with fClk := 1000000, fCarrier := 35714 } = .refused .invalidConfiguration := by
  rw [boot, dif_neg (by decide)]

theorem test_ref_boots : boot Params.ref = .next (State.resetOn Config.ref) := by
  rw [boot, dif_pos Params.ref_valid]
  rfl

/-! ### Duty and frequency (R115, R116), the assembler's text (R80, R81) -/

theorem test_duty_201 : duty 201 = 100 / 201 ∧ duty 200 = 1 / 2 := by
  have hodd : (201 : Word).toNat = 201 := rfl
  have heven : (200 : Word).toNat = 200 := rfl
  constructor <;> norm_num [duty, highTicks, hodd, heven]

theorem test_read_line :
    readLine ['S', 'E', 'L', 'E', 'C', 'T', ' ', '0', 'x', '1', '0', ' ', ';', ' ', 'x'] =
      some [.command (.select 16)] := by decide

theorem test_read_program :
    (readProgram [['S', 'I', 'L', 'E', 'N', 'C', 'E'], [], ['W', 'A', 'I', 'T', '\t', '2']]).map programEvents =
      some [.cmd 0x3010, .tick, .tick] := by decide

theorem test_read_refuses_a_large_index : readLine ['L', 'O', 'O', 'K', 'U', 'P', ' ', '2', '5', '6'] = none := by decide

/-- A word presented right after reset is the first thing the machine runs. -/
theorem test_first_command_after_reset :
    step (State.reset.withFetchWord 16 0x4009) = exec (.lookup 9) State.reset := by rfl

/-! ### Witnesses: a state and operands that meet a statement's hypotheses together, for each of its clauses -/

theorem witness_DecodeOfEncodeIsTheCommand : (Instr.select 255).WellFormed ∧ (Instr.lookup 0).WellFormed := by decide

theorem witness_EncodeOfDecodedCommandIsTheWord : decode 0x30FF = .ok (.select 255) := by decide

theorem witness_OpcodeMapSelectsAtMostOneRow :
    0x0000#16 &&& 0xFFFF#16 = 0x0000#16 ∧ 0x1000#16 &&& 0xFFFF#16 = 0x1000#16 ∧ 0x2000#16 &&& 0xFFFF#16 = 0x2000#16 ∧
    0x30FF#16 &&& 0xFF00#16 = 0x3000#16 ∧ 0x4000#16 &&& 0xFF00#16 = 0x4000#16 ∧
    (opcodeRows[4]'(by decide)).selects 0x40FF = true := by decide

theorem witness_ReservedFieldsMustBeZero :
    zField 0x3100 ≠ 0 ∧ ((opField 0x20FF).toNat ≤ 2 ∧ argField 0x20FF ≠ 0) := by decide

theorem witness_IllegalWordsAreRefused :
    (stateOf (shortRegs 0 onCtrl) [.cmd 0x5000]).rst = false ∧ decode 0x5000 = .error .reservedOp := by decide

theorem witness_StepRunsTheDecodedCommand :
    (stateOf (shortRegs 0 onCtrl) [.cmd 0x2000]).events = .cmd 0x2000 :: [] ∧ decode 0x2000 = .ok .stop := by decide

/-- The carrier OFF: before the first START and after a STOP. -/
theorem witness_StartWhileOff :
    (Regs.resetOn Config.ref).ctrl.run = false ∧ (shortRegs 3 stoppedCtrl).ctrl.run = false := by decide

/-- The carrier ON, at CNT = 0 and at the last position of the cycle. -/
theorem witness_StartWhileOn : (shortRegs 0 onCtrl).ctrl.run = true ∧ (shortRegs 4 onCtrl).ctrl.run = true := by decide

theorem witness_CarrierStateMachine : (shortRegs 0 stoppedCtrl).carrier = .off ∧ (shortRegs 0 onCtrl).carrier = .on := by
  decide

/-- SELECT and LOOKUP complete at the last row, at the first index beyond it, and at index 255. -/
theorem witness_indexed_commands_complete :
    ∀ index ∈ [0, 9, 15, 16, 255], ∀ s : State,
      (∃ t, exec (.select index) s = .next t) ∧ ∃ t, exec (.lookup index) s = .next t :=
  fun _ _ _ => ⟨⟨_, rfl⟩, ⟨_, rfl⟩⟩

theorem witness_CommandsWriteOnlyWhatTheHostMay :
    ∃ t, exec .stop (stateOf (shortRegs 4 onCtrl) []) = .next t ∧ Instr.stop ≠ .start := ⟨_, rfl, by decide⟩

theorem witness_ModulationStateMachine :
    ({ shortRegs 0 onCtrl with rateLo := 0, rateHi := 0 } : Regs).modulatedBy Config.machine .silent ∧
    ((shortRegs 0 onCtrl).select (ratePair Config.machine 15)).modulatedBy Config.machine (.tone 15) ∧
    ∃ t, exec .nop (stateOf (shortRegs 0 onCtrl) []) = .next t :=
  ⟨⟨rfl, rfl⟩, ⟨by simp [ratePair, toneRow], by simp [ratePair, toneRow]⟩, _, rfl⟩

/-- LOOKUP at the last row and at the first index beyond it. -/
theorem witness_OnlyLookupDrivesTheResponse :
    (∃ t, step (stateOf (shortRegs 0 onCtrl) [.cmd 0x400F]) = .next t) ∧ decode 0x400F = .ok (.lookup 15) ∧
    (∃ t, step (stateOf (shortRegs 0 onCtrl) [.cmd 0x4010]) = .next t) ∧ decode 0x4010 = .ok (.lookup 16) :=
  ⟨⟨_, rfl⟩, by decide, ⟨_, rfl⟩, by decide⟩

theorem witness_TicksWhileOffChangeNothing :
    (stateOf (shortRegs 3 stoppedCtrl) [.tick, .tick]).events = List.replicate 2 .tick ++ [] ∧
    (shortRegs 3 stoppedCtrl).ctrl.run = false := by decide

/-- One count short of the boundary, and at it. -/
theorem witness_TickCountsOrRunsTheEngine :
    (stateOf (shortRegs 3 onCtrl) [.tick]).events = [.tick] ∧ (shortRegs 3 onCtrl).cnt.toNat + 1 < 5 ∧
    (shortRegs 4 onCtrl).top.toNat ≤ (shortRegs 4 onCtrl).cnt.toNat + 1 ∧ (shortRegs 4 onCtrl).ctrl.ie = true := by decide

theorem witness_UnarmedCarrierRunsAtAFixedPeriod :
    let r := shortRegs 4 { onCtrl with ie := false }
    r.ctrl.run = true ∧ r.ctrl.ie = false ∧ r.cnt.toNat < r.top.toNat ∧
    (stateOf r [.tick, .tick, .tick]).events = List.replicate 3 .tick ++ [] := by decide

theorem witness_CarrierCycleLastsTopTicks :
    let r := shortRegs 0 onCtrl
    r.ctrl.run = true ∧ r.ctrl.ie = true ∧ r.ctrl.oe = true ∧ r.cnt = 0 ∧ 0 < r.top.toNat ∧
    r.cmp.toNat = r.top.toNat / 2 ∧
    (stateOf r (List.replicate 5 .tick)).events = List.replicate r.top.toNat .tick ++ [] := by decide

/-- An edge without a command and an edge with one. -/
theorem witness_ClockedEdgeIsTickThenCommand :
    let idle : EdgeInput := { rst := false, cmdValid := false, cmdWord := 0xFFFF }
    let select : EdgeInput := { rst := false, cmdValid := true, cmdWord := 0x3005 }
    (stateOf (shortRegs 0 onCtrl) [.rst false, .tick]).events = idle.events ++ [] ∧
    (stateOf (shortRegs 0 onCtrl) [.rst false, .tick, .cmd 0x3005]).events = select.events ++ [] ∧
    decode select.cmdWord = .ok (.select 5) := by decide

theorem witness_SelectAtABoundaryEdgeIsSeenByTheNextCycle :
    let r := shortRegs 4 onCtrl
    r.ctrl.run = true ∧ r.ctrl.ie = true ∧ r.top.toNat ≤ r.cnt.toNat + 1 ∧
    (stateOf r [.rst false, .tick, .cmd 0x300F]).events =
      EdgeInput.events { rst := false, cmdValid := true, cmdWord := encode (.select 15) } ++ [] := by decide

/-- Registers that meet the invariant at every configuration: the carrier started, with the tone of row 9 selected. -/
def startedRegs (c : Config) : Regs := ((Regs.resetOn c).start c).select (ratePair c 9)

theorem startedRegs_inv (c : Config) : RegInv c (startedRegs c) := by
  have hlow := c.nominal_low
  have hhigh := c.nominal_high
  have hcmp : (BitVec.ofNat 16 (c.nominal / 2)).toNat = c.nominal / 2 := by
    rw [BitVec.toNat_ofNat]
    omega
  refine ⟨⟨?_, ?_⟩, ⟨?_, ?_⟩, ?_, ?_, ⟨.tone 9, rfl, rfl⟩, ⟨rfl, rfl, fun _ => rfl⟩⟩
  all_goals simp [startedRegs, hcmp]
  all_goals omega

theorem witness_EngineIntermediatesStayInRange : RegInv Config.machine (startedRegs Config.machine) :=
  startedRegs_inv _

theorem witness_EveryStepKeepsTheInvariant :
    Inv Config.machine (stateOf (startedRegs Config.machine) [.tick]) ∧
    ∃ t, step (stateOf (startedRegs Config.machine) [.tick]) = .next t :=
  ⟨⟨startedRegs_inv _, nofun⟩, _, rfl⟩

theorem witness_SilenceFreezesThePhasesAndSettles :
    let r := cycleRegs 200 0x4000 0x4000 0 0
    r.rateLo = 0 ∧ r.rateHi = 0 := by decide

/-- In silence every invocation stages the same period, so two of them have a constant one. -/
theorem witness_ConstantPeriodGivesConstantIncrements :
    let c := Config.machine
    let r := Regs.cycle c (cycleRegs 200 0x4000 0x4000 0 0)
    ∀ k, k < 2 → ((Regs.cycle c)^[k] r).pend.toNat = r.pend.toNat := by
  intro c r k hk
  interval_cases k
  · rfl
  · have h : (Regs.cycle c r).pend = r.pend := by
      simp only [r]
      rw [cycle_of_silent c (Regs.cycle c (cycleRegs 200 0x4000 0x4000 0 0)) rfl rfl,
        cycle_of_silent c (cycleRegs 200 0x4000 0x4000 0 0) rfl rfl]
      rfl
    exact congrArg BitVec.toNat h

theorem witness_CtrlTakesThreeValues :
    (stateOf (shortRegs 0 stoppedCtrl) [.cmd 0x1000]).regs.ctrl.bits = 0b1110#4 ∧
    ∃ t, step (stateOf (shortRegs 0 stoppedCtrl) [.cmd 0x1000]) = .next t := ⟨by decide, _, rfl⟩

theorem witness_RatePairIsNeverTorn :
    RatePairWhole Config.machine (startedRegs Config.machine) ∧
    ∃ t, step (stateOf (startedRegs Config.machine) [.cmd 0x3010]) = .next t := ⟨⟨.tone 9, rfl, rfl⟩, _, rfl⟩

/-- A boundary that changes TOP, the accumulators and the armed event being what they need to be. -/
theorem witness_boundary_changes_period_and_phases :
    ∃ t, step (stateOf (shortRegs 4 onCtrl) [.tick]) = .next t ∧ t.regs.top ≠ (shortRegs 4 onCtrl).top ∧
      t.regs.accLo ≠ (shortRegs 4 onCtrl).accLo := ⟨_, rfl, by decide, by decide⟩

/-- START of an OFF carrier, and reset, each from a state whose TOP they change. -/
theorem witness_start_and_reset_change_the_period :
    let r := { shortRegs 3 stoppedCtrl with top := 0 }
    (∃ t, step (stateOf r [.cmd 0x1000]) = .next t ∧ t.regs.top ≠ r.top) ∧
    ∃ t, step (stateOf r [.rst true]) = .next t ∧ t.regs.top ≠ r.top := by
  have hlow := Config.machine.nominal_low
  have hne : Config.machine.nominalWord ≠ 0 := fun h => by
    have := congrArg BitVec.toNat h
    rw [Config.nominalWord_toNat] at this
    simp at this
    omega
  exact ⟨⟨_, rfl, hne⟩, _, rfl, hne⟩

/-- Reset asserted, held over a tick and an illegal word, and released. -/
theorem witness_ResetEventAndHeldReset :
    let held : State := { stateOf (Regs.resetOn Config.ref) [.cmd 0xFFFF] with rst := true }
    (stateOf (shortRegs 4 onCtrl) [.rst true]).events = .rst true :: [] ∧
    held.rst = true ∧ held.events = .cmd 0xFFFF :: [] ∧
    ({ held with events := [.rst false] } : State).events = .rst false :: [] := by decide

theorem witness_FirstBoundaryIsNominalTicksAfterStart :
    let s := stateOf (shortRegs 3 stoppedCtrl) (.cmd 0x1000 :: List.replicate Config.machine.nominal .tick ++ [])
    s.rst = false ∧ s.regs.ctrl.run = false ∧
    s.events = .cmd 0x1000 :: List.replicate Config.machine.nominal .tick ++ [] ∧ 0 < Config.machine.nominal := by
  have := Config.machine.nominal_low
  exact ⟨rfl, rfl, rfl, by omega⟩

theorem witness_RestartResumesTheStagedPeriod :
    let es := Event.cmd 0x2000 :: (List.replicate 3 .tick ++
      .cmd 0x1000 :: (List.replicate Config.machine.nominal .tick ++ []))
    (stateOf (shortRegs 3 onCtrl) es).rst = false ∧ (stateOf (shortRegs 3 onCtrl) es).events = es := ⟨rfl, rfl⟩

theorem witness_DeadlineConditionSuffices :
    Config.ref.MeetsDeadline 93 ∧ RegInv Config.ref (startedRegs Config.ref) :=
  ⟨by unfold Config.MeetsDeadline; decide, startedRegs_inv _⟩

end Sys2Proof.Tests
end

section
/-! A machine boots exactly from a valid configuration (00_scope.md R12, decision D15). The model states `VALID` in
natural numbers and with `RATE_MAX`; the rule states it in integers, and here rate by rate. -/

namespace Sys2Proof

open Sys2Proof.Machine

theorem exists_toneKey_eq_of_mem {k : ToneKey} (hk : k ∈ toneKeys.toList) : ∃ i, toneKey i = k := by
  obtain ⟨i, hi, rfl⟩ := Vector.getElem_of_mem (Vector.mem_toList_iff.mp hk)
  exact ⟨⟨i, hi⟩, rfl⟩

/-- A bound on the product with `RATE_MAX` is the same bound on the product with every rate of the table (R12 (e)). -/
theorem Params.mul_rateMax_lt_iff (p : Params) (n : Nat) {b : Nat} (hb : 0 < b) :
    n * p.rateMax < b ↔
      ∀ i : Fin 16, n * p.rate (toneKey i).lowHz < b ∧ n * p.rate (toneKey i).highHz < b := by
  constructor
  · intro h i
    obtain ⟨hlo, hhi⟩ := p.rate_le_rateMax i
    exact ⟨(Nat.mul_le_mul_left n hlo).trans_lt h, (Nat.mul_le_mul_left n hhi).trans_lt h⟩
  · intro h
    refine List.foldlRecOn (motive := fun m => n * m < b) _ max hb fun m hm r hr => ?_
    obtain ⟨k, hk, rfl⟩ := List.mem_map.mp hr
    obtain ⟨i, rfl⟩ := exists_toneKey_eq_of_mem hk
    rw [← Nat.mul_max_mul_left, ← Nat.mul_max_mul_left]
    exact max_lt hm (max_lt (h i).1 (h i).2)

/-- `NOMINAL` as an integer quotient (R10). -/
theorem Params.nominal_cast (p : Params) : (p.nominal : Int) = p.fClk / p.fCarrier := Int.natCast_ediv _ _

/-- `D_MAX` as an integer quotient (R10). -/
theorem Params.dMax_cast (p : Params) : (p.dMax : Int) = 3 * p.sineAmp / 32 := Int.natCast_ediv _ _

/-- R12 (d) and (e), rate by rate and in integers. -/
theorem Params.forall_rate_bounds_iff (p : Params) :
    (∀ i : Fin 16, ∀ f, f = (toneKey i).lowHz ∨ f = (toneKey i).highHz →
      p.rate f < 65536 ∧ ((p.nominal : Int) + p.dMax) * p.rate f < 65536) ↔
    (∀ i : Fin 16, p.rate (toneKey i).lowHz < 65536 ∧ p.rate (toneKey i).highHz < 65536) ∧
      (p.nominal + p.dMax) * p.rateMax < 65536 := by
  have hcast (f : Word) : ((p.nominal : Int) + p.dMax) * p.rate f < 65536 ↔
      (p.nominal + p.dMax) * p.rate f < 65536 := by norm_cast
  simp only [hcast, forall_eq_or_imp, forall_eq, p.mul_rateMax_lt_iff _ (by decide : 0 < 65536),
    ← forall_and, and_and_and_comm]

/-- `VALID` with its conditions (a) to (f) in integers, (e) for every rate (R12). -/
theorem Params.valid_iff (p : Params) :
    p.Valid ↔ 1 ≤ p.fClk ∧ 1 ≤ p.fCarrier ∧
      (p.nominal : Int) - p.dMax ≥ 2 ∧ (p.nominal : Int) + p.dMax ≤ 65535 ∧
      (∀ i : Fin 16, ∀ f, f = (toneKey i).lowHz ∨ f = (toneKey i).highHz →
        p.rate f < 65536 ∧ ((p.nominal : Int) + p.dMax) * p.rate f < 65536) ∧
      ∀ x : Phase, -p.sineAmp ≤ p.sine x ∧ p.sine x ≤ p.sineAmp := by
  have hlow : (p.nominal : Int) - p.dMax ≥ 2 ↔ p.dMax + 2 ≤ p.nominal := by omega
  have hhigh : (p.nominal : Int) + p.dMax ≤ 65535 ↔ p.nominal + p.dMax ≤ 65535 := by omega
  have hsine (x : Phase) : -(p.sineAmp : Int) ≤ p.sine x ∧ p.sine x ≤ p.sineAmp ↔
      (p.sine x).natAbs ≤ p.sineAmp := by omega
  simp only [Params.Valid, hlow, hhigh, hsine, p.forall_rate_bounds_iff, and_assoc]

namespace Machine

theorem boot_of_valid (p : Params) (h : p.Valid) : boot p = .next (State.resetOn { p with valid := h }) :=
  dif_pos h

theorem boot_of_not_valid (p : Params) (h : ¬ p.Valid) : boot p = .refused .invalidConfiguration :=
  dif_neg h

theorem exists_boot_eq_next_iff (p : Params) : (∃ s, boot p = .next s) ↔ p.Valid := by
  constructor
  · rintro ⟨s, hs⟩
    by_contra h
    rw [boot_of_not_valid p h] at hs
    cases hs
  · exact fun h => ⟨_, boot_of_valid p h⟩

end Machine

/-- Settles O44: boot answers a state exactly from valid parameters, and `VALID` is R12's (a) to (f) spelled out. -/
theorem invalidConfigurationIsRefused : Obligations.InvalidConfigurationIsRefused := by
  intro p
  refine ⟨?_, ?_⟩
  · rw [exists_boot_eq_next_iff, p.valid_iff, p.nominal_cast, p.dMax_cast]
  · exact (em p.Valid).imp (exists_boot_eq_next_iff p).mpr (boot_of_not_valid p)

end Sys2Proof
end

section
/-! The reset values (10_state.md R37, decision D23): what the registers at reset read as numbers and bits, and what a
cleared CTRL says of the pin and of the CarrierState. -/

namespace Sys2Proof.Machine

/-- NOMINAL div 2 fits the duty register, as NOMINAL fits the period's (R25, R37). -/
theorem regs_resetOn_cmp_toNat (c : Config) : (Regs.resetOn c).cmp.toNat = c.nominal / 2 := by
  rw [regs_resetOn_cmp, ← c.nominalWord_toNat, half_toNat]

theorem regs_resetOn_ctrl_bits (c : Config) : (Regs.resetOn c).ctrl.bits = 0b0000#4 := by
  rw [regs_resetOn_ctrl]
  decide

/-- The pin is low while the output is disabled, wherever the counter stands (R30). -/
theorem out_of_output_disabled {r : Regs} (h : r.ctrl.oe = false) : r.out = false := by
  rw [Regs.out, h, Bool.false_and]

theorem carrier_of_stopped {r : Regs} (h : r.ctrl.run = false) : r.carrier = .off := by
  simp [Regs.carrier, h]

end Sys2Proof.Machine

namespace Sys2Proof

open Sys2Proof.Machine

/-- Settles O40: the registers field by field; OUT and the CarrierState follow from CTRL, SILENT from the rates. -/
theorem resetStateHasTheResetValues : Obligations.ResetStateHasTheResetValues := by
  have hPeriod := Config.machine.nominalWord_toNat
  have hOut : State.reset.out = false := out_of_output_disabled rfl
  have hCarrier : State.reset.regs.carrier = .off := carrier_of_stopped rfl
  have hSilent : State.reset.regs.modulatedBy Config.machine .silent := ⟨rfl, rfl⟩
  exact ⟨rfl, rfl, rfl, rfl, hPeriod, hPeriod, regs_resetOn_cmp_toNat _, rfl, regs_resetOn_ctrl_bits _,
    hOut, hCarrier, hSilent⟩

end Sys2Proof
end

section
/-! The rates of the tone ROM (20_memory.md R56, decision D12). The quotient the model computes is the exact ratio
rounded to the nearest integer, halves up, stated here without a fraction. -/

namespace Sys2Proof

open Sys2Proof.Machine

/-- At any clock, the rate is the one integer `k` with `2 * F_CLK * k <= 2 * N + F_CLK < 2 * F_CLK * (k + 1)`, `N` being
the numerator `16 * f * 65536` of R56: the rule's 2097152 is `2 * 16 * 65536`. -/
theorem Machine.rateOf_rounds_half_up {fClk : Nat} (hpos : 1 ≤ fClk) (f : Nat) :
    2 * fClk * rateOf fClk f ≤ 2 * (16 * f * 65536) + fClk ∧
      2 * (16 * f * 65536) + fClk < 2 * fClk * (rateOf fClk f + 1) := by
  have hnum : 2 * (16 * f * 65536) + fClk = 2097152 * f + fClk := by omega
  rw [hnum]
  exact ⟨Nat.mul_div_le _ _, Nat.lt_mul_div_succ _ (by omega)⟩

/-- Settles O45: the rounding holds at any positive clock, and a valid configuration's rates fit their fields. -/
theorem ratesAreRoundedToNearest : Obligations.RatesAreRoundedToNearest := by
  intro c
  refine ⟨fun f => ?_, fun i => ?_⟩
  · exact rateOf_rounds_half_up c.fClk_pos f.toNat
  · exact ⟨c.tone_rateLo_toNat i, c.tone_rateHi_toNat i⟩

end Sys2Proof
end

section
/-! The opcode map row by row (30_encoding.md R71, R73): what a row that selects a word says of the word's fields and of
the other rows, and what the decoder makes of it. -/

namespace Sys2Proof

theorem OpcodeRow.selects_iff {row : OpcodeRow} {w : Word} :
    row.selects w = true ↔ w &&& row.mask = row.pattern := decide_eq_true_iff

/-- Two rows that select one word have equal patterns wherever both masks look. -/
theorem OpcodeRow.patterns_agree_of_selects {a b : OpcodeRow} {w : Word}
    (ha : a.selects w = true) (hb : b.selects w = true) : a.pattern &&& b.mask = b.pattern &&& a.mask := by
  rw [← selects_iff.mp ha, ← selects_iff.mp hb, BitVec.and_assoc, BitVec.and_assoc, BitVec.and_comm a.mask]

/-- A field the mask covers whole is the pattern's in every word the row selects. -/
theorem OpcodeRow.field_eq_of_selects {row : OpcodeRow} {w : Word} (h : row.selects w = true) {start len : Nat}
    (hmask : row.mask.extractLsb' start len = BitVec.allOnes len) :
    w.extractLsb' start len = row.pattern.extractLsb' start len := by
  rw [← selects_iff.mp h, BitVec.extractLsb'_and, hmask, BitVec.and_allOnes]

/-- No two positions of the opcode map select one word (R71). -/
theorem opcodeRows_index_unique {w : Word} {j k : Nat} (hj : j < opcodeRows.length) (hk : k < opcodeRows.length)
    (hwj : opcodeRows[j].selects w = true) (hwk : opcodeRows[k].selects w = true) : j = k := by
  have hdisjoint := List.pairwise_iff_getElem.mp opcodeRows_disjoint
  rcases Nat.lt_trichotomy j k with hlt | heq | hgt
  · exact absurd (OpcodeRow.patterns_agree_of_selects hwj hwk) (hdisjoint j k hj hk hlt)
  · exact heq
  · exact absurd (OpcodeRow.patterns_agree_of_selects hwk hwj) (hdisjoint k j hk hj hgt)

/-- The decoder reads the one row that selects the word, wherever it stands in the map (R71, R72). -/
theorem decode_of_selects {w : Word} {k : Nat} (hk : k < opcodeRows.length)
    (h : opcodeRows[k].selects w = true) : decode w = .ok (opcodeRows[k].read (w.toNat % 256)) := by
  have hfind : opcodeRows.find? (fun row => row.selects w) = some opcodeRows[k] := by
    rw [List.find?_eq_some_iff_getElem]
    refine ⟨h, k, hk, rfl, fun j hjk => ?_⟩
    have hj : opcodeRows[j].selects w ≠ true := fun hwj =>
      hjk.ne (opcodeRows_index_unique (hjk.trans hk) hk hwj h)
    simpa using hj
  rw [decode, hfind, argField_toNat]

theorem decode_eq_error_of_no_row {w : Word} (h : ∀ row ∈ opcodeRows, row.selects w = false) :
    decode w = .error (illegalReason w) := by
  have hfind : opcodeRows.find? (fun row => row.selects w) = none := by simpa using h
  rw [decode, hfind]

/-- Every mask covers OP and Z, and Z is zero in every pattern; under OP 0 to 2 the same holds of ARG (R70, R71). -/
theorem opcodeRows_reserved_fields : ∀ row ∈ opcodeRows,
    opField row.mask = BitVec.allOnes 4 ∧ zField row.mask = BitVec.allOnes 4 ∧ zField row.pattern = 0 ∧
    ((opField row.pattern).toNat ≤ 2 → argField row.mask = BitVec.allOnes 8 ∧ argField row.pattern = 0) := by
  decide

/-- A word that a row selects has zeros in its reserved fields (R73). -/
theorem reserved_fields_zero_of_selects {row : OpcodeRow} (hrow : row ∈ opcodeRows) {w : Word}
    (h : row.selects w = true) : zField w = 0 ∧ ((opField w).toNat ≤ 2 → argField w = 0) := by
  obtain ⟨hopMask, hzMask, hz, harg⟩ := opcodeRows_reserved_fields row hrow
  have hop : opField w = opField row.pattern := OpcodeRow.field_eq_of_selects h hopMask
  refine ⟨(OpcodeRow.field_eq_of_selects h hzMask).trans hz, fun hle => ?_⟩
  obtain ⟨hargMask, harg0⟩ := harg (hop ▸ hle)
  exact (OpcodeRow.field_eq_of_selects h hargMask).trans harg0

/-- Settles O3: each pattern is its row's test, and a word that two rows select would make their patterns agree. -/
theorem opcodeMapSelectsAtMostOneRow : Obligations.OpcodeMapSelectsAtMostOneRow := by
  refine ⟨fun w => ⟨fun h => ?_, fun h => ?_, fun h => ?_, fun h => ?_, fun h => ?_⟩, fun w j k hj hk => ?_⟩
  · exact decode_of_selects (k := 0) (by decide) (OpcodeRow.selects_iff.mpr h)
  · exact decode_of_selects (k := 1) (by decide) (OpcodeRow.selects_iff.mpr h)
  · exact decode_of_selects (k := 2) (by decide) (OpcodeRow.selects_iff.mpr h)
  · exact decode_of_selects (k := 3) (by decide) (OpcodeRow.selects_iff.mpr h)
  · exact decode_of_selects (k := 4) (by decide) (OpcodeRow.selects_iff.mpr h)
  · exact Fin.ext (opcodeRows_index_unique j.isLt k.isLt hj hk)

/-- Settles O4: a row that selected the word would force its reserved fields to zero, and with no row there is no
command. -/
theorem reservedFieldsMustBeZero : Obligations.ReservedFieldsMustBeZero := by
  intro w hreserved
  have hnone : ∀ row ∈ opcodeRows, row.selects w = false := by
    intro row hrow
    rw [← Bool.not_eq_true]
    intro h
    obtain ⟨hz, harg⟩ := reserved_fields_zero_of_selects hrow h
    rcases hreserved with hz' | ⟨hop, harg'⟩
    · exact hz' hz
    · exact harg' (harg hop)
  exact ⟨hnone, _, decode_eq_error_of_no_row hnone⟩

end Sys2Proof
end

section
/-! CYCLE in numbers (40_dds_engine.md R90 to R98): what each register holds after one invocation, with the samples read
from the sine ROM at the high byte of the accumulators and the equalization test as the spec writes it. -/

namespace Sys2Proof.Machine

/-- The ROM is read at the accumulator's high byte, `ACC div 256` (R93, R98). -/
theorem sampleAt_eq (c : Config) (acc : Word) : sampleAt c acc = c.sine (BitVec.ofNat 8 (acc.toNat / 256)) := by
  rw [sampleAt, ← phaseOf_toNat, BitVec.ofNat_toNat, BitVec.setWidth_eq]

/-- The equalized sample with R94's test on the two rates for the branch. -/
theorem equalize_doublesHigh (r : Regs) (sample : Int) :
    equalize r.doublesHigh sample =
      if r.rateHi.toNat > 2 * r.rateLo.toNat then 2 * sample else sample + sample.tdiv 2 := by
  simp only [equalize, Regs.doublesHigh, decide_eq_true_eq, gt_iff_lt]

/-- The accumulators CYCLE leaves are those it sampled, and it changes no rate. -/
theorem cycle_deviation (c : Config) (r : Regs) :
    (r.cycle c).deviation c = r.commit.advancePhases.deviation c := rfl

theorem cycle_cmp_toNat (c : Config) (r : Regs) : (r.cycle c).cmp.toNat = r.pend.toNat / 2 :=
  half_toNat r.pend

theorem cycle_accLo_toNat (c : Config) (r : Regs) :
    (r.cycle c).accLo.toNat = (r.accLo.toNat + r.pend.toNat * r.rateLo.toNat / 16) % 65536 :=
  advance_toNat r.accLo (phaseStep r.pend r.rateLo)

theorem cycle_accHi_toNat (c : Config) (r : Regs) :
    (r.cycle c).accHi.toNat = (r.accHi.toNat + r.pend.toNat * r.rateHi.toNat / 16) % 65536 :=
  advance_toNat r.accHi (phaseStep r.pend r.rateHi)

end Sys2Proof.Machine

namespace Sys2Proof

open Sys2Proof.Machine

/-- Settles O27: one lemma a register; the deviation CYCLE staged is read back from the registers it leaves. -/
theorem cycleCommitsAdvancesAndStages : Obligations.CycleCommitsAdvancesAndStages := by
  intro r t sLo sHi eHi
  have hStaged : (t.pend.toNat : Int) = Config.machine.nominal + (sLo + eHi).tdiv 32 := by
    rw [cycle_pend_toNat, ← cycle_deviation, Regs.deviation, blend, equalize_doublesHigh, sampleAt_eq, sampleAt_eq,
      cycle_rateLo, cycle_rateHi]
  exact ⟨rfl, cycle_cmp_toNat _ r, cycle_accLo_toNat _ r, cycle_accHi_toNat _ r, hStaged, rfl, rfl, rfl, rfl⟩

end Sys2Proof
end

section
/-! The accumulators over many CYCLEs (40_dds_engine.md R102, R104): their steps add up modulo 65536. -/

namespace Sys2Proof.Machine

/-- A phase advanced once for every number below `n` has moved by the sum of the steps. -/
theorem toNat_of_advances {acc : Nat → Word} {inc : Nat → Nat} (h : ∀ k, acc (k + 1) = advance (acc k) (inc k))
    (n : Nat) : (acc n).toNat = ((acc 0).toNat + ((List.range n).map inc).sum) % 65536 := by
  induction n with
  | zero => exact (Nat.mod_eq_of_lt (acc 0).isLt).symm
  | succ n ih =>
    rw [h, advance_toNat, ih, Nat.mod_add_mod, List.range_succ, List.map_append, List.sum_append,
      List.map_singleton, List.sum_singleton, Nat.add_assoc]

theorem toNat_of_equal_advances {acc : Nat → Word} {inc : Nat → Nat}
    (h : ∀ k, acc (k + 1) = advance (acc k) (inc k)) {n d : Nat} (hd : ∀ k < n, inc k = d) :
    (acc n).toNat = ((acc 0).toNat + n * d) % 65536 := by
  have hsum : ((List.range n).map inc).sum = n * d := by
    rw [List.sum_eq_card_nsmul _ d (by simpa using hd), List.length_map, List.length_range, smul_eq_mul]
  rw [toNat_of_advances h, hsum]

/-- Every CYCLE of a run advances by the period it commits and the rates the run began with (R92, R105). -/
theorem iterate_cycle_succ_accLo (c : Config) (r : Regs) (k : Nat) :
    ((Regs.cycle c)^[k + 1] r).accLo =
      advance ((Regs.cycle c)^[k] r).accLo (phaseStep ((Regs.cycle c)^[k] r).pend r.rateLo) := by
  rw [Function.iterate_succ_apply', cycle_accLo, (iterate_cycle_rates c r k).1]

theorem iterate_cycle_succ_accHi (c : Config) (r : Regs) (k : Nat) :
    ((Regs.cycle c)^[k + 1] r).accHi =
      advance ((Regs.cycle c)^[k] r).accHi (phaseStep ((Regs.cycle c)^[k] r).pend r.rateHi) := by
  rw [Function.iterate_succ_apply', cycle_accHi, (iterate_cycle_rates c r k).2]

end Sys2Proof.Machine

namespace Sys2Proof

open Sys2Proof.Machine

/-- Settles O32: under one committed period the steps of each accumulator are equal, and equal advances add up. -/
theorem constantPeriodGivesConstantIncrements : Obligations.ConstantPeriodGivesConstantIncrements := by
  intro r period n hperiod
  have hstep (rate : Word) (k : Nat) (hk : k < n) :
      phaseStep ((Regs.cycle Config.machine)^[k] r).pend rate = period * rate.toNat / 16 := by
    rw [phaseStep, hperiod k hk]
  constructor
  · exact toNat_of_equal_advances (acc := fun k => ((Regs.cycle Config.machine)^[k] r).accLo)
      (iterate_cycle_succ_accLo Config.machine r) (hstep r.rateLo)
  · exact toNat_of_equal_advances (acc := fun k => ((Regs.cycle Config.machine)^[k] r).accHi)
      (iterate_cycle_succ_accHi Config.machine r) (hstep r.rateHi)

end Sys2Proof
end

section
/-! The timer tick by tick (41_timer_tick.md R110 to R113): one equation per case of a tick, what a run of ticks does to
registers that a tick holds, and the count modulo TOP of a carrier whose event is not armed. -/

namespace Sys2Proof.Machine

/-! ### One tick -/

theorem tick_of_stopped (c : Config) {r : Regs} (hrun : r.ctrl.run = false) : r.tick c = r := by
  simp [Regs.tick, hrun]

theorem tick_of_below_boundary (c : Config) {r : Regs} (hrun : r.ctrl.run = true)
    (hb : r.cnt.toNat + 1 < r.top.toNat) : r.tick c = { r with cnt := BitVec.ofNat 16 (r.cnt.toNat + 1) } := by
  simp [Regs.tick, Regs.atBoundary, hrun, hb]

theorem tick_of_boundary (c : Config) {r : Regs} (hrun : r.ctrl.run = true) (hb : r.top.toNat ≤ r.cnt.toNat + 1) :
    r.tick c = r.boundary c := by
  simp [Regs.tick, Regs.atBoundary, hrun, hb]

theorem boundary_of_armed (c : Config) {r : Regs} (hie : r.ctrl.ie = true) :
    r.boundary c = Regs.cycle c { r with cnt := 0 } := if_pos hie

theorem boundary_of_unarmed (c : Config) {r : Regs} (hie : r.ctrl.ie = false) :
    r.boundary c = { r with cnt := 0 } := by
  simp [Regs.boundary, hie]

/-- A count below TOP fits the counter (R27, R118). -/
theorem count_toNat {top : Word} {k : Nat} (h : k < top.toNat) : (BitVec.ofNat 16 k).toNat = k :=
  (BitVec.toNat_ofNat k 16).trans (Nat.mod_eq_of_lt (h.trans top.isLt))

/-! ### Ticks that hold the registers -/

/-- If one tick leaves the registers as they are, be it because the carrier is OFF or because reset is asserted, so does
a run of ticks (R110, R160). -/
theorem runsTo_ticks_of_held (n : Nat) (s : State) (rest : List Event)
    (hheld : (s.tick Config.machine).regs = s.regs) (he : s.events = List.replicate n .tick ++ rest) :
    ∃ t, RunsTo n s t ∧ t.regs = s.regs ∧ t.rst = s.rst ∧ t.events = rest := by
  induction n generalizing s with
  | zero => exact ⟨s, RunsTo.zero s, rfl, rfl, he⟩
  | succ n ih =>
    have hs := step_of_tick s (List.replicate n .tick ++ rest) (by rwa [List.replicate_succ, List.cons_append] at he)
    set u := State.tick Config.machine { s with events := List.replicate n .tick ++ rest }
    have hu : u.regs = s.regs := hheld
    have hu' : (u.tick Config.machine).regs = u.regs := by
      rw [tickState_regs, hu]
      exact hheld
    obtain ⟨t, hrun, hregs, hrst, hevents⟩ := ih u hu' rfl
    refine ⟨t, ?_, hregs.trans hu, hrst, hevents⟩
    rw [Nat.add_comm]
    exact (RunsTo.one hs).trans hrun

/-! ### An unarmed carrier -/

/-- An unarmed tick moves the counter by one modulo TOP: below the boundary the remainder is the count itself, at the
boundary it is 0 (R113). -/
theorem tick_of_unarmed (c : Config) {r : Regs} (hrun : r.ctrl.run = true) (hie : r.ctrl.ie = false)
    (hcnt : r.cnt.toNat < r.top.toNat) :
    r.tick c = { r with cnt := BitVec.ofNat 16 ((r.cnt.toNat + 1) % r.top.toNat) } := by
  rcases Nat.lt_or_ge (r.cnt.toNat + 1) r.top.toNat with hb | hb
  · rw [tick_of_below_boundary c hrun hb, Nat.mod_eq_of_lt hb]
  · have hwrap : r.cnt.toNat + 1 = r.top.toNat := le_antisymm hcnt hb
    rw [tick_of_boundary c hrun hb, boundary_of_unarmed c hie, hwrap, Nat.mod_self, BitVec.ofNat_eq_ofNat]

/-- Over `n` unarmed ticks CNT runs modulo TOP and no other register changes (R113). -/
theorem ticks_of_unarmed (c : Config) (n : Nat) {r : Regs} (hrun : r.ctrl.run = true) (hie : r.ctrl.ie = false)
    (hcnt : r.cnt.toNat < r.top.toNat) :
    Regs.ticks c n r = { r with cnt := BitVec.ofNat 16 ((r.cnt.toNat + n) % r.top.toNat) } := by
  have htop : 0 < r.top.toNat := Nat.zero_lt_of_lt hcnt
  induction n with
  | zero => rw [Nat.add_zero, Nat.mod_eq_of_lt hcnt, BitVec.ofNat_toNat, BitVec.setWidth_eq, Regs.ticks]
  | succ n ih =>
    have hlt : (r.cnt.toNat + n) % r.top.toNat < r.top.toNat := Nat.mod_lt _ htop
    have hn := count_toNat hlt
    have hnext := tick_of_unarmed c (r := { r with cnt := BitVec.ofNat 16 ((r.cnt.toNat + n) % r.top.toNat) })
      hrun hie (hn.trans_lt hlt)
    simpa only [ticks_succ, ih, hn, Nat.mod_add_mod, Nat.add_assoc] using hnext

end Sys2Proof.Machine

namespace Sys2Proof

open Sys2Proof.Machine

/-- Settles O21: with CTRL.RUN = 0 one tick holds the registers at either reset level, hence every run of ticks does. -/
theorem ticksWhileOffChangeNothing : Obligations.TicksWhileOffChangeNothing := by
  intro s n rest hrun he
  have hheld : (s.tick Config.machine).regs = s.regs := by
    rw [tickState_regs, tick_of_stopped _ hrun, ite_self]
  obtain ⟨t, ht, hregs, hrst, hevents⟩ := runsTo_ticks_of_held n s rest hheld he
  exact ⟨t, ht, hregs, congrArg Regs.out hregs, hrst, hevents⟩

/-- Settles O22: outside reset the step ticks the registers, and each clause is one case of a tick. -/
theorem tickCountsOrRunsTheEngine : Obligations.TickCountsOrRunsTheEngine := by
  intro s rest hrst he hrun
  set t := State.tick Config.machine { s with events := rest }
  have ht : t.regs = s.regs.tick Config.machine := by simp [t, hrst]
  refine ⟨t, step_of_tick s rest he, hrst, rfl, rfl, fun hb => ?_, fun hb hie => ?_, fun hb hie => ?_⟩
  · rw [ht, tick_of_below_boundary _ hrun hb]
    exact ⟨count_toNat hb, rfl⟩
  · rw [ht, tick_of_boundary _ hrun hb, boundary_of_armed _ hie]
    exact ⟨rfl, rfl⟩
  · rw [ht, tick_of_boundary _ hrun hb, boundary_of_unarmed _ hie]

/-- Settles O23: the run of ticks is that of the registers, which counts modulo TOP. -/
theorem unarmedCarrierRunsAtAFixedPeriod : Obligations.UnarmedCarrierRunsAtAFixedPeriod := by
  intro s n rest hrst hrun hie hcnt he
  obtain ⟨t, ht, hregs, -, hevents⟩ := runsTo_ticks n s rest hrst he
  rw [ticks_of_unarmed _ n hrun hie hcnt] at hregs
  refine ⟨t, ht, ?_, ?_, hevents⟩
  · rw [hregs]
    exact count_toNat (Nat.mod_lt _ (Nat.zero_lt_of_lt hcnt))
  · rw [hregs]

end Sys2Proof
end

section
/-! The carrier commands (42_carrier_ctl.md R120 to R125): one equation for each outcome of NOP, START and STOP, what an
event that ends without a response shows at the ports, and what START and STOP make of the pin and of an OFF carrier. -/

namespace Sys2Proof.Machine

/-! ### The outcome of each command -/

theorem exec_nop (s : State) : exec .nop s = .next (s.finish s.regs) := rfl

theorem exec_start_of_stopped {s : State} (hoff : s.regs.ctrl.run = false) :
    exec .start s = .next (s.finish (s.regs.start Config.machine)) := by
  simp [exec, execStart, startOn, hoff]

theorem exec_start_of_running {s : State} (hon : s.regs.ctrl.run = true) :
    exec .start s = .refused .startWhileRunning := if_pos hon

theorem exec_stop (s : State) : exec .stop s = .next (s.finish s.regs.stop) := rfl

/-! ### The ports -/

@[simp] theorem finish_respValid (s : State) (r : Regs) : (s.finish r).respValid = false := rfl

@[simp] theorem finish_respWord (s : State) (r : Regs) : (s.finish r).respWord = 0 := rfl

@[simp] theorem finish_out (s : State) (r : Regs) : (s.finish r).out = r.out := rfl

/-! ### START and STOP on the registers -/

/-- NOMINAL div 2 fits the duty register, as NOMINAL fits the period's (R25, R121). -/
theorem start_cmp_toNat (c : Config) (r : Regs) : (r.start c).cmp.toNat = c.nominal / 2 := by
  rw [start_cmp, half_toNat, c.nominalWord_toNat]

/-- START raises the pin at once: `CNT = 0 < CMP`, as a valid NOMINAL is at least 2 (R12 (b), R121 (c)). -/
theorem start_out (c : Config) (r : Regs) : (r.start c).out = true := by
  have hduty : 0 < (r.start c).cmp.toNat := by
    rw [start_cmp_toNat]
    exact Nat.div_pos (le_of_add_le_right c.nominal_low) Nat.two_pos
  simpa [Regs.out] using hduty

/-- The pin is a function of CTRL.OE, CNT and CMP, none of which STOP writes (R114, R124). -/
@[simp] theorem stop_out (r : Regs) : r.stop.out = r.out := rfl

/-- STOP while OFF clears a bit that is 0 already (R125). -/
theorem stop_of_stopped {r : Regs} (hoff : r.ctrl.run = false) : r.stop = r := by
  rw [Regs.stop, ← hoff]

end Sys2Proof.Machine

namespace Sys2Proof

open Sys2Proof.Machine

/-- Settles O10: TOP and CMP are NOMINAL and its half, whence the pin is high; the rest is the frame of `Regs.start`. -/
theorem startWhileOffStartsTheCarrier : Obligations.StartWhileOffStartsTheCarrier := by
  refine ⟨rfl, by decide, fun s hoff => ⟨_, exec_start_of_stopped hoff, ?_⟩⟩
  have hTop : (s.regs.start Config.machine).top.toNat = Config.machine.nominal := Config.machine.nominalWord_toNat
  have hCmp := start_cmp_toNat Config.machine s.regs
  have hOut := start_out Config.machine s.regs
  exact ⟨rfl, hTop, hCmp, rfl, hOut, rfl, rfl, rfl, rfl, rfl, rfl, rfl, rfl, rfl⟩

/-- Settles O12: what STOP keeps is the frame of `Regs.stop`, and the cleared RUN holds the registers through every later
tick. -/
theorem stopHaltsTheClockAndKeepsTheRest : Obligations.StopHaltsTheClockAndKeepsTheRest := by
  refine ⟨rfl, by decide, fun s => ⟨_, exec_stop s, ?_⟩⟩
  have hOff : s.regs.stop.ctrl.run = false := rfl
  have hTicks (n : Nat) : Regs.ticks Config.machine n s.regs.stop = s.regs.stop :=
    ticks_while_off Config.machine n s.regs.stop hOff
  simpa [State.out] using ⟨stop_of_stopped, hTicks⟩

/-- Settles O9: NOP ends its event with the registers it began with. -/
theorem nopChangesNothing : Obligations.NopChangesNothing := by
  refine ⟨rfl, by decide, fun s => ⟨_, exec_nop s, ?_⟩⟩
  simp [State.out]

/-- Settles O11: the guard of START is CTRL.RUN alone. -/
theorem startWhileOnIsRefused : Obligations.StartWhileOnIsRefused := fun _ hon => exec_start_of_running hon

end Sys2Proof
end

section
/-! The tone selection commands (43_selection.md R130 to R136): the words and the outcomes of SELECT and LOOKUP, the
response port after a LOOKUP, and what an index reads of the tone ROM below its bound and from it on. -/

namespace Sys2Proof

/-- The index adds to the opcode's pattern without a carry into OP or Z (R72, R130, R133). -/
theorem operandWord_toNat {base : Word} {index : Nat} (hbase : base.toNat ≤ 0x4000) (h : index < 256) :
    (base + BitVec.ofNat 16 index).toNat = base.toNat + index := by
  rw [BitVec.toNat_add, BitVec.toNat_ofNat]
  omega

theorem encode_select_toNat {index : Nat} (h : index < 256) : (encode (.select index)).toNat = 0x3000 + index :=
  operandWord_toNat (base := 0x3000) (by decide) h

theorem encode_lookup_toNat {index : Nat} (h : index < 256) : (encode (.lookup index)).toNat = 0x4000 + index :=
  operandWord_toNat (base := 0x4000) (by decide) h

end Sys2Proof

namespace Sys2Proof.Machine

/-! ### The outcome of each command -/

theorem exec_select (index : Nat) (s : State) :
    exec (.select index) s = .next (s.finish (s.regs.select (ratePair Config.machine index))) := rfl

theorem exec_lookup (index : Nat) (s : State) :
    exec (.lookup index) s = .next (s.answer (lookupWord Config.machine index)) := rfl

@[simp] theorem answer_respValid (s : State) (w : RespWord) : (s.answer w).respValid = true := rfl

@[simp] theorem answer_respWord (s : State) (w : RespWord) : (s.answer w).respWord = w := rfl

@[simp] theorem answer_out (s : State) (w : RespWord) : (s.answer w).out = s.out := rfl

/-! ### The row an index names -/

/-- Below 16 the selected pair is RATE of the row's two frequencies, untruncated (R56, R130). -/
theorem ratePair_toNat_of_lt (c : Config) {index : Nat} (h : index < 16) :
    (ratePair c index).1.toNat = c.rate (toneKey ⟨index, h⟩).lowHz ∧
    (ratePair c index).2.toNat = c.rate (toneKey ⟨index, h⟩).highHz := by
  rw [ratePair_of_lt c index h]
  exact ⟨c.tone_rateLo_toNat _, c.tone_rateHi_toNat _⟩

/-- Below 16 the answer has FOUND set and holds the row's key (R76, R133). -/
theorem lookupWord_fields_of_lt (c : Config) {index : Nat} (h : index < 16) :
    respFound (lookupWord c index) = true ∧
    respSymbol (lookupWord c index) = (toneKey ⟨index, h⟩).symbol ∧
    respLowHz (lookupWord c index) = (toneKey ⟨index, h⟩).lowHz ∧
    respHighHz (lookupWord c index) = (toneKey ⟨index, h⟩).highHz := by
  rw [lookupWord_of_lt c index h]
  exact foundWord_fields (c.tone ⟨index, h⟩)

/-- A key as the table of R55 prints it: the symbol's code and the two frequencies as numbers. -/
def ToneKey.numbers (k : ToneKey) : Nat × Nat × Nat := (k.symbol.toNat, k.lowHz.toNat, k.highHz.toNat)

/-- Row `index` of the printed table is the key at ROM address `index` (R54, R55). -/
theorem numbers_getElem?_of_lt {index : Nat} (h : index < 16) :
    (toneKeys.toList.map ToneKey.numbers)[index]? = some (toneKey ⟨index, h⟩).numbers := by
  simp [toneKey, h]

end Sys2Proof.Machine

namespace Sys2Proof

open Sys2Proof.Machine

/-- Settles O13: the rates are the pair the index selects, and the rest is the frame of `Regs.select`. -/
theorem selectLoadsTheRatePair : Obligations.SelectLoadsTheRatePair := by
  refine ⟨fun _ => encode_select_toNat, fun s index => ⟨_, exec_select index s, fun h => ?_, fun h => ?_, ?_⟩⟩
  · have hPair := ratePair_of_lt Config.machine index h
    obtain ⟨hLo, hHi⟩ := ratePair_toNat_of_lt Config.machine h
    exact ⟨congrArg Prod.fst hPair, congrArg Prod.snd hPair, hLo, hHi⟩
  · simp [ratePair_of_ge _ index h]
  · simp

/-- Settles O14: the answer holds the fields of the row the index names, and `State.answer` writes the port alone. -/
theorem lookupAnswersTheRow : Obligations.LookupAnswersTheRow := by
  refine ⟨fun _ => encode_lookup_toNat, fun s index => ⟨_, exec_lookup index s, rfl, rfl, rfl, rfl, rfl, ?_, ?_⟩⟩
  · exact fun h => lookupWord_fields_of_lt Config.machine h
  · exact lookupWord_of_ge Config.machine index

/-- Settles O15: the table written out is the model's tone ROM in numbers, and below 16 both commands read the key at the
one address `index` of it; from 16 on neither reads the ROM. -/
theorem selectThenLookupAgree : Obligations.SelectThenLookupAgree := by
  intro s index table
  have hTable : table = toneKeys.toList.map ToneKey.numbers := rfl
  refine ⟨_, _, exec_select index s, exec_lookup index _, rfl, fun h => ?_, fun h => ?_⟩
  · obtain ⟨hFound, hSymbol, hLow, hHigh⟩ := lookupWord_fields_of_lt Config.machine h
    obtain ⟨hRateLo, hRateHi⟩ := ratePair_toNat_of_lt Config.machine h
    rw [answer_respWord, hSymbol, hLow, hHigh, hTable]
    exact ⟨hFound, numbers_getElem?_of_lt h, hRateLo, hRateHi⟩
  · simp [ratePair_of_ge _ index h, lookupWord_of_ge _ index h, respFound]

end Sys2Proof
end

section
/-! Decoding and encoding agree (30_encoding.md R71 to R75): a word decodes exactly when it is the word of a well-formed
command, and the other words are those whose fields R75 lists. -/

namespace Sys2Proof

/-- The words of SELECT and LOOKUP have the opcode's pattern as their high byte and the index as their low one (R72). -/
theorem decode_encode_select {index : Nat} (h : index < 256) :
    decode (encode (.select index)) = .ok (.select index) := by
  have hlow : (0x3000 + index) % 256 = index := by omega
  rw [decode_eq, encode_select_toNat h, if_neg (by omega), if_neg (by omega), if_neg (by omega),
    if_pos (by omega), hlow]

theorem decode_encode_lookup {index : Nat} (h : index < 256) :
    decode (encode (.lookup index)) = .ok (.lookup index) := by
  have hlow : (0x4000 + index) % 256 = index := by omega
  rw [decode_eq, encode_lookup_toNat h, if_neg (by omega), if_neg (by omega), if_neg (by omega), if_neg (by omega),
    if_pos (by omega), hlow]

/-- The commands a word can decode to, each with the numbers of its words. -/
theorem decode_ok_cases {w : Word} {i : Instr} (h : decode w = .ok i) :
    (i = .nop ∧ w.toNat = 0x0000) ∨ (i = .start ∧ w.toNat = 0x1000) ∨ (i = .stop ∧ w.toNat = 0x2000) ∨
    (∃ index < 256, i = .select index ∧ w.toNat = 0x3000 + index) ∨
    (∃ index < 256, i = .lookup index ∧ w.toNat = 0x4000 + index) := by
  rw [decode_eq] at h
  split_ifs at h with hnop hstart hstop hselect hlookup
  all_goals obtain rfl := Except.ok.inj h
  · exact .inl ⟨rfl, hnop⟩
  · exact .inr (.inl ⟨rfl, hstart⟩)
  · exact .inr (.inr (.inl ⟨rfl, hstop⟩))
  · exact .inr (.inr (.inr (.inl ⟨w.toNat % 256, by omega, rfl, by omega⟩)))
  · exact .inr (.inr (.inr (.inr ⟨w.toNat % 256, by omega, rfl, by omega⟩)))

/-- The illegal words as numbers (R75). -/
theorem decode_error_iff {w : Word} : (∃ e, decode w = .error e) ↔
    w.toNat ≠ 0x0000 ∧ w.toNat ≠ 0x1000 ∧ w.toNat ≠ 0x2000 ∧ w.toNat / 256 ≠ 0x30 ∧ w.toNat / 256 ≠ 0x40 := by
  rw [decode_eq]
  split_ifs <;> simp [*]

theorem zField_ne_zero_iff {w : Word} : zField w ≠ 0 ↔ w.toNat / 256 % 16 ≠ 0 := by
  rw [ne_eq, ← BitVec.toNat_inj, zField_toNat]
  rfl

theorem argField_ne_zero_iff {w : Word} : argField w ≠ 0 ↔ w.toNat % 256 ≠ 0 := by
  rw [ne_eq, ← BitVec.toNat_inj, argField_toNat]
  rfl

/-- Settles O1: the words of NOP, START and STOP are constants, the other two carry their index in the low byte. -/
theorem decodeOfEncodeIsTheCommand : Obligations.DecodeOfEncodeIsTheCommand := by
  intro i hwf
  cases i with
  | nop => decide
  | start => decide
  | stop => decide
  | select index => exact decode_encode_select (of_decide_eq_true hwf)
  | lookup index => exact decode_encode_lookup (of_decide_eq_true hwf)

/-- Settles O2: the number of a word that decodes is the number of its command's word. -/
theorem encodeOfDecodedCommandIsTheWord : Obligations.EncodeOfDecodedCommandIsTheWord := by
  intro w i h
  obtain ⟨rfl, hw⟩ | ⟨rfl, hw⟩ | ⟨rfl, hw⟩ | ⟨index, hindex, rfl, hw⟩ | ⟨index, hindex, rfl, hw⟩ := decode_ok_cases h
  · exact ⟨rfl, BitVec.eq_of_toNat_eq hw.symm⟩
  · exact ⟨rfl, BitVec.eq_of_toNat_eq hw.symm⟩
  · exact ⟨rfl, BitVec.eq_of_toNat_eq hw.symm⟩
  · exact ⟨decide_eq_true hindex, BitVec.eq_of_toNat_eq ((encode_select_toNat hindex).trans hw.symm)⟩
  · exact ⟨decide_eq_true hindex, BitVec.eq_of_toNat_eq ((encode_lookup_toNat hindex).trans hw.symm)⟩

/-- Settles O6: each word is evaluated by the decoder. -/
theorem wordsDecodeToTheirCommands : Obligations.WordsDecodeToTheirCommands := by
  unfold Obligations.WordsDecodeToTheirCommands
  decide

end Sys2Proof
end

section
/-! Where a step goes on and where it stops (00_scope.md R8, 30_encoding.md R75, 42_carrier_ctl.md R122, 60_exceptions.md
R140). -/

namespace Sys2Proof.Machine

theorem step_of_illegal {s : State} {w : Word} {rest : List Event} {e : DecodeError} (he : s.events = .cmd w :: rest)
    (hrst : s.rst = false) (hd : decode w = .error e) : step s = .refused .illegalCommand := by
  rw [step_of_cmd s w rest he hrst, hd]

theorem step_of_decoded {s : State} {w : Word} {rest : List Event} {i : Instr} (he : s.events = .cmd w :: rest)
    (hrst : s.rst = false) (hd : decode w = .ok i) : step s = exec i { s with events := rest } := by
  rw [step_of_cmd s w rest he hrst, hd]

/-- START is the one command with a guard (R122). -/
theorem exec_next_or_second_start (i : Instr) (s : State) :
    (∃ t, exec i s = .next t) ∨
    (i = .start ∧ s.regs.ctrl.run = true ∧ exec i s = .refused .startWhileRunning) := by
  cases i with
  | nop => exact .inl ⟨_, exec_nop s⟩
  | start =>
    cases hrun : s.regs.ctrl.run with
    | false => exact .inl ⟨_, exec_start_of_stopped hrun⟩
    | true => exact .inr ⟨rfl, rfl, exec_start_of_running hrun⟩
  | stop => exact .inl ⟨_, exec_stop s⟩
  | select index => exact .inl ⟨_, exec_select index s⟩
  | lookup index => exact .inl ⟨_, exec_lookup index s⟩

end Sys2Proof.Machine

namespace Sys2Proof

open Sys2Proof.Machine

/-- Settles O5: both sides say the same of the word as a number, its fields being quotients and remainders. -/
theorem illegalWordsAreRefused : Obligations.IllegalWordsAreRefused := by
  intro w
  refine ⟨?_, fun s rest hrst he ⟨e, hd⟩ => step_of_illegal he hrst hd⟩
  have hlt := w.isLt
  rw [decode_error_iff, opField_toNat, zField_ne_zero_iff, argField_ne_zero_iff]
  omega

/-- Settles O7: the step decodes the head of the events, and `withFetchWord` puts the word there. -/
theorem stepRunsTheDecodedCommand : Obligations.StepRunsTheDecodedCommand := by
  intro s w i hd
  refine ⟨fun rest hrst he => step_of_decoded he hrst hd, ?_⟩
  have hword : BitVec.ofNat 16 (w.toNat % 2 ^ 16) = w := by
    rw [Nat.mod_eq_of_lt w.isLt, BitVec.ofNat_toNat, BitVec.setWidth_eq]
  rw [State.withFetchWord, hword]
  exact step_presentNext s w i hd

/-- Settles O8: a tick, a reset level and an ignored word complete; a served word is illegal or a command, and only START
has a guard. -/
theorem stepStopsOnlyOnIllegalWordOrSecondStart : Obligations.StepStopsOnlyOnIllegalWordOrSecondStart := by
  intro s
  match he : s.events with
  | [] => exact .inl ⟨_, step_of_no_event s he⟩
  | .tick :: rest => exact .inl ⟨_, step_of_tick s rest he⟩
  | .rst b :: rest => exact .inl ⟨_, step_of_rst s b rest he⟩
  | .cmd w :: rest =>
    cases hrst : s.rst with
    | true => exact .inl ⟨_, step_of_cmd_in_reset s w rest he hrst⟩
    | false =>
      cases hd : decode w with
      | error e => exact .inr (.inl ⟨w, rest, e, rfl, rfl, hd, step_of_illegal he hrst hd⟩)
      | ok i =>
        rw [step_of_decoded he hrst hd]
        rcases exec_next_or_second_start i { s with events := rest } with hnext | ⟨rfl, hrun, hrefused⟩
        · exact .inl hnext
        · exact .inr (.inr ⟨w, rest, rfl, rfl, hd, hrun, hrefused⟩)

end Sys2Proof
end

section
/-! What each command writes and drives (10_state.md R32, 30_encoding.md R77, 42_carrier_ctl.md R127, 43_selection.md
R135): the frame of every command, the two state machines, and the response port. -/

namespace Sys2Proof.Machine

/-! ### The CarrierState and the ModulationState -/

theorem carrier_eq_off_iff {r : Regs} : r.carrier = .off ↔ r.ctrl.run = false := by
  cases hrun : r.ctrl.run <;> simp [Regs.carrier, hrun]

theorem carrier_eq_on_iff {r : Regs} : r.carrier = .on ↔ r.ctrl.run = true := by
  cases hrun : r.ctrl.run <;> simp [Regs.carrier, hrun]

theorem tick_carrier (c : Config) (r : Regs) : (r.tick c).carrier = r.carrier := by
  rw [Regs.carrier, (tick_frame c r).2.2, Regs.carrier]

/-- The ModulationState is a function of the rates alone (R135). -/
theorem modulatedBy_of_rates_eq {c : Config} {r r' : Regs} {m : ModulationState}
    (hLo : r'.rateLo = r.rateLo) (hHi : r'.rateHi = r.rateHi) (h : r.modulatedBy c m) : r'.modulatedBy c m := by
  cases m with
  | silent => exact ⟨hLo.trans h.1, hHi.trans h.2⟩
  | tone i => exact ⟨hLo.trans h.1, hHi.trans h.2⟩

theorem select_modulatedBy (c : Config) (r : Regs) (index : Nat) :
    (r.select (ratePair c index)).modulatedBy c (selectedModulation index) := by
  rcases Nat.lt_or_ge index 16 with h | h
  · simp [selectedModulation, h, Regs.modulatedBy, ratePair_of_lt c index h]
  · simp [selectedModulation, Nat.not_lt.mpr h, Regs.modulatedBy, ratePair_of_ge c index h]

/-! ### The response port -/

theorem step_of_lookup {s : State} {w : Word} {rest : List Event} {index : Nat} (he : s.events = .cmd w :: rest)
    (hrst : s.rst = false) (hd : decode w = .ok (.lookup index)) :
    step s = .next (State.answer { s with events := rest } (lookupWord Config.machine index)) := by
  rw [step_of_decoded he hrst hd, exec_lookup]

/-- A step drives no response unless it serves a LOOKUP outside reset (R77, R160). -/
theorem step_resp_none_or_lookup {s t : State} (h : step s = .next t) :
    t.resp = none ∨
    (s.rst = false ∧ ∃ w rest index, s.events = .cmd w :: rest ∧ decode w = .ok (.lookup index)) := by
  obtain ⟨-, rfl⟩ | ⟨_, -, rfl⟩ | ⟨_, _, -, rfl⟩ | ⟨_, _, -, -, rfl⟩ | ⟨w, rest, i, he, hrst, hd, hexec⟩ :=
    step_next_cases s t h
  · exact .inl rfl
  · exact .inl rfl
  · exact .inl rfl
  · exact .inl rfl
  · obtain ⟨-, rfl⟩ | ⟨-, -, rfl⟩ | ⟨-, rfl⟩ | ⟨_, -, rfl⟩ | ⟨index, rfl, -⟩ := exec_next_cases _ _ _ hexec
    · exact .inl rfl
    · exact .inl rfl
    · exact .inl rfl
    · exact .inl rfl
    · exact .inr ⟨hrst, w, rest, index, he, hd⟩

/-- FOUND tells a row from the empty result (R76, R77). -/
theorem respFound_lookupWord_iff (c : Config) (index : Nat) :
    respFound (lookupWord c index) = true ↔ index < 16 := by
  rcases Nat.lt_or_ge index 16 with h | h
  · simp [h, (lookupWord_fields_of_lt c h).1]
  · simp [Nat.not_lt.mpr h, lookupWord_of_ge c index h, respFound]

theorem respWord_of_not_respValid {s : State} (h : s.respValid = false) : s.respWord = 0 := by
  have hnone : s.resp = none := by simpa [State.respValid] using h
  rw [State.respWord, hnone]
  rfl

end Sys2Proof.Machine

namespace Sys2Proof

open Sys2Proof.Machine

/-- Settles O17: one case for each command, by the frame of what it writes. -/
theorem commandsWriteOnlyWhatTheHostMay : Obligations.CommandsWriteOnlyWhatTheHostMay := by
  intro i s t h
  obtain ⟨rfl, rfl⟩ | ⟨rfl, -, rfl⟩ | ⟨rfl, rfl⟩ | ⟨index, rfl, rfl⟩ | ⟨index, rfl, rfl⟩ := exec_next_cases i s t h
  · simp
  · simp
  · simp
  · simp
  · simp

/-- Settles O18: the CarrierState is CTRL.RUN, which START sets, STOP clears and the rest keep. -/
theorem carrierStateMachine : Obligations.CarrierStateMachine := by
  intro s
  refine ⟨fun hoff => ?_, fun hon => ?_, ⟨_, exec_stop s, rfl⟩, fun hoff => ?_, tick_carrier _ _,
    ⟨_, exec_nop s, rfl⟩, fun index => ⟨⟨_, exec_select index s, rfl⟩, ⟨_, exec_lookup index s, rfl⟩⟩⟩
  · exact ⟨_, exec_start_of_stopped (carrier_eq_off_iff.mp hoff), rfl⟩
  · exact exec_start_of_running (carrier_eq_on_iff.mp hon)
  · exact tick_of_stopped _ (carrier_eq_off_iff.mp hoff)

/-- Settles O19: SELECT writes the pair of the state it goes to, and nothing else writes a rate. -/
theorem modulationStateMachine : Obligations.ModulationStateMachine := by
  intro s
  refine ⟨fun index => ⟨_, exec_select index s, select_modulatedBy _ _ index⟩, fun m hm => ⟨?_, ?_, ?_⟩⟩
  · intro i t hi h
    obtain ⟨-, -, -, hrates, -⟩ := commandsWriteOnlyWhatTheHostMay i s t h
    obtain ⟨hLo, hHi⟩ := hrates hi
    exact modulatedBy_of_rates_eq hLo hHi hm
  · obtain ⟨hLo, hHi, -⟩ := tick_frame Config.machine s.regs
    exact modulatedBy_of_rates_eq hLo hHi hm
  · exact modulatedBy_of_rates_eq (cycle_rateLo _ _) (cycle_rateHi _ _) hm

/-- Settles O20: a served LOOKUP answers its word, and every other step clears the port. -/
theorem onlyLookupDrivesTheResponse : Obligations.OnlyLookupDrivesTheResponse := by
  intro s t h
  have hanswer : ∀ w rest index, s.rst = false → s.events = .cmd w :: rest → decode w = .ok (.lookup index) →
      t = State.answer { s with events := rest } (lookupWord Config.machine index) := by
    intro w rest index hrst he hd
    exact Host.Outcome.next.inj (h.symm.trans (step_of_lookup he hrst hd))
  refine ⟨⟨fun hvalid => ?_, ?_⟩, respWord_of_not_respValid, fun w rest index hrst he hd => ?_⟩
  · refine (step_resp_none_or_lookup h).resolve_left fun hnone => ?_
    simp [State.respValid, hnone] at hvalid
  · rintro ⟨hrst, w, rest, index, he, hd⟩
    rw [hanswer w rest index hrst he hd, answer_respValid]
  · rw [hanswer w rest index hrst he hd, answer_respWord]
    exact ⟨respFound_lookupWord_iff _ index, lookupWord_of_ge _ index⟩

/-- Settles O16: the answer of `lookupOn` is a function of the configuration and the index. -/
theorem lookupResponseIsTheSameInEveryState : Obligations.LookupResponseIsTheSameInEveryState :=
  fun index s s' => ⟨_, _, exec_lookup index s, exec_lookup index s', rfl, rfl⟩

end Sys2Proof
end

section
/-! What a step does to the registers, and the invariants (10_state.md R29, R31, 41_timer_tick.md R118): the registers
are kept, ticked, reset, or written by START, STOP or SELECT, and each of these keeps the parts (a) to (f) of R31. -/

namespace Sys2Proof.Machine

/-! ### What a step does to the registers -/

/-- The next event is a clock tick, or none is left and the clock goes on (log entry 3). -/
def State.ticksNext (s : State) : Prop := s.events = [] ∨ ∃ rest, s.events = .tick :: rest

/-- Everything a step can do to the registers. The three writes that reach TOP, CMP, PEND or an accumulator are given
with the event that makes them. -/
theorem step_regs_cases {s t : State} (h : step s = .next t) :
    t.regs = s.regs ∨
    (s.ticksNext ∧ s.rst = false ∧ t.regs = s.regs.tick Config.machine) ∨
    (∃ rest, s.events = .rst true :: rest ∧ t.regs = Regs.resetOn Config.machine) ∨
    (∃ w rest, s.events = .cmd w :: rest ∧ decode w = .ok .start ∧ s.rst = false ∧ s.regs.ctrl.run = false ∧
      t.regs = s.regs.start Config.machine) ∨
    t.regs = s.regs.stop ∨
    ∃ index, t.regs = s.regs.select (ratePair Config.machine index) := by
  have htick {u : State} (hticks : s.ticksNext) (hregs : u.regs = s.regs) (hrst : u.rst = s.rst) :
      (u.tick Config.machine).regs = s.regs ∨
      (s.ticksNext ∧ s.rst = false ∧ (u.tick Config.machine).regs = s.regs.tick Config.machine) := by
    rw [tickState_regs, hregs, hrst]
    cases s.rst with
    | true => exact .inl rfl
    | false => exact .inr ⟨hticks, rfl, rfl⟩
  obtain ⟨he, rfl⟩ | ⟨rest, he, rfl⟩ | ⟨b, rest, he, rfl⟩ | ⟨_, _, -, -, rfl⟩ | ⟨w, rest, i, he, hrst, hd, hexec⟩ :=
    step_next_cases s t h
  · exact (htick (.inl he) rfl rfl).imp_right .inl
  · exact (htick (.inr ⟨rest, he⟩) rfl rfl).imp_right .inl
  · cases b with
    | false => exact .inl rfl
    | true => exact .inr (.inr (.inl ⟨rest, he, rfl⟩))
  · exact .inl rfl
  · obtain ⟨-, rfl⟩ | ⟨rfl, hrun, rfl⟩ | ⟨-, rfl⟩ | ⟨index, -, rfl⟩ | ⟨_, -, rfl⟩ := exec_next_cases _ _ _ hexec
    · exact .inl rfl
    · exact .inr (.inr (.inr (.inl ⟨w, rest, he, hd, hrst, hrun, rfl⟩)))
    · exact .inr (.inr (.inr (.inr (.inl rfl))))
    · exact .inr (.inr (.inr (.inr (.inr ⟨index, rfl⟩))))
    · exact .inl rfl

/-- A property of the registers that holds at reset and that a tick, START, STOP and SELECT keep is kept by every
step. -/
theorem step_keeps {P : Regs → Prop} (hreset : P (Regs.resetOn Config.machine))
    (htick : ∀ r, P r → P (r.tick Config.machine)) (hstart : ∀ r, P r → P (r.start Config.machine))
    (hstop : ∀ r, P r → P r.stop) (hselect : ∀ r index, P r → P (r.select (ratePair Config.machine index)))
    {s t : State} (h : step s = .next t) (hs : P s.regs) : P t.regs := by
  obtain hr | ⟨-, -, hr⟩ | ⟨_, -, hr⟩ | ⟨_, _, -, -, -, -, hr⟩ | hr | ⟨index, hr⟩ := step_regs_cases h
  · exact hr ▸ hs
  · exact hr ▸ htick _ hs
  · exact hr ▸ hreset
  · exact hr ▸ hstart _ hs
  · exact hr ▸ hstop _ hs
  · exact hr ▸ hselect _ index hs

/-- Reset is asserted after a step only if the step asserted it, or held it and changed no register (R160). -/
theorem step_in_reset_cases {s t : State} (h : step s = .next t) (ht : t.rst = true) :
    t.regs = Regs.resetOn Config.machine ∨ (s.rst = true ∧ t.regs = s.regs) := by
  obtain ⟨-, rfl⟩ | ⟨_, -, rfl⟩ | ⟨b, _, -, rfl⟩ | ⟨_, _, -, hrst, rfl⟩ | ⟨_, _, i, -, hrst, -, hexec⟩ :=
    step_next_cases s t h
  · exact .inr ⟨ht, if_pos ht⟩
  · exact .inr ⟨ht, if_pos ht⟩
  · exact .inl (if_pos ht)
  · exact .inr ⟨hrst, rfl⟩
  · obtain ⟨-, -, -, -, -, -, hkeep, -⟩ := commandsWriteOnlyWhatTheHostMay _ _ _ hexec
    simp [hkeep, hrst] at ht

/-- A tick moves the counter alone, unless it is an armed boundary (R111, R113). -/
theorem tick_counts_or_armed_boundary (c : Config) (r : Regs) :
    r.tick c = { r with cnt := (r.tick c).cnt } ∨
    (r.ctrl.run = true ∧ r.ctrl.ie = true ∧ r.top.toNat ≤ r.cnt.toNat + 1 ∧
      r.tick c = Regs.cycle c { r with cnt := 0 }) := by
  obtain ⟨-, h⟩ | ⟨-, -, h⟩ | ⟨-, -, -, h⟩ | ⟨hrun, hb, hie, h⟩ := tick_cases c r
  · exact .inl (by rw [h])
  · exact .inl (by rw [h])
  · exact .inl (by rw [h])
  · exact .inr ⟨hrun, hie, hb, h⟩

/-! ### CTRL (R29) -/

/-- The legal values of CTRL are R29's three. -/
theorem Ctrl.legal_iff_bits (k : Ctrl) :
    k.Legal ↔ k.bits = 0b0000#4 ∨ k.bits = 0b1111#4 ∨ k.bits = 0b1110#4 := by
  obtain ⟨run, ie, oe, cfg⟩ := k
  unfold Ctrl.Legal
  revert run ie oe cfg
  decide

theorem Ctrl.Legal.stop {k : Ctrl} (h : k.Legal) : ({ k with run := false } : Ctrl).Legal :=
  ⟨h.1, h.2.1, nofun⟩

theorem resetOn_ctrl_legal (c : Config) : (Regs.resetOn c).ctrl.Legal := ⟨rfl, rfl, nofun⟩

theorem start_ctrl_legal (c : Config) (r : Regs) : (r.start c).ctrl.Legal := ⟨rfl, rfl, fun _ => rfl⟩

theorem tick_ctrl_legal (c : Config) {r : Regs} (h : r.ctrl.Legal) : (r.tick c).ctrl.Legal := by
  rwa [(tick_frame c r).2.2]

/-! ### The rate pair (R131) -/

theorem RatePairWhole.of_rates_eq {c : Config} {r r' : Regs} (h : RatePairWhole c r)
    (hLo : r'.rateLo = r.rateLo) (hHi : r'.rateHi = r.rateHi) : RatePairWhole c r' :=
  h.imp fun _ => modulatedBy_of_rates_eq hLo hHi

theorem resetOn_ratePairWhole (c : Config) : RatePairWhole c (Regs.resetOn c) := ⟨.silent, rfl, rfl⟩

theorem select_ratePairWhole (c : Config) (r : Regs) (index : Nat) :
    RatePairWhole c (r.select (ratePair c index)) := ⟨_, select_modulatedBy c r index⟩

theorem tick_ratePairWhole {c : Config} {r : Regs} (h : RatePairWhole c r) : RatePairWhole c (r.tick c) := by
  obtain ⟨hLo, hHi, -⟩ := tick_frame c r
  exact h.of_rates_eq hLo hHi

/-! ### The periods (R31, R100) -/

theorem PeriodInRange.two_le {c : Config} {period : Word} (h : PeriodInRange c period) : 2 ≤ period.toNat := by
  have hlow := c.nominal_low
  have := h.1
  omega

theorem nominalWord_inRange (c : Config) : PeriodInRange c c.nominalWord := by
  rw [PeriodInRange, c.nominalWord_toNat]
  omega

/-- CYCLE stages a period within `D_MAX` of NOMINAL, from any registers (R100). -/
theorem cycle_pend_inRange (c : Config) (r : Regs) : PeriodInRange c (Regs.cycle c r).pend := by
  have hpend := cycle_pend_toNat c r
  have hdev := deviation_le_dMax c r.commit.advancePhases
  rw [PeriodInRange]
  omega

/-! ### The invariant of the registers (R31) -/

theorem RegInv.resetOn (c : Config) : RegInv c (Regs.resetOn c) where
  pend_in_range := nominalWord_inRange c
  top_in_range := nominalWord_inRange c
  cmp_half := by rw [regs_resetOn_cmp_toNat, regs_resetOn_top, c.nominalWord_toNat]
  cnt_below := Nat.zero_lt_of_lt (nominalWord_inRange c).two_le
  rates_whole := resetOn_ratePairWhole c
  ctrl_legal := resetOn_ctrl_legal c

theorem RegInv.start {c : Config} {r : Regs} (h : RegInv c r) : RegInv c (r.start c) where
  pend_in_range := h.pend_in_range
  top_in_range := nominalWord_inRange c
  cmp_half := half_toNat c.nominalWord
  cnt_below := Nat.zero_lt_of_lt (nominalWord_inRange c).two_le
  rates_whole := h.rates_whole.of_rates_eq rfl rfl
  ctrl_legal := start_ctrl_legal c r

theorem RegInv.stop {c : Config} {r : Regs} (h : RegInv c r) : RegInv c r.stop :=
  { h with rates_whole := h.rates_whole.of_rates_eq rfl rfl, ctrl_legal := h.ctrl_legal.stop }

theorem RegInv.select {c : Config} {r : Regs} (h : RegInv c r) (index : Nat) :
    RegInv c (r.select (ratePair c index)) :=
  { h with rates_whole := select_ratePairWhole c r index }

theorem RegInv.count {c : Config} {r : Regs} (h : RegInv c r) {n : Word} (hn : n.toNat < r.top.toNat) :
    RegInv c { r with cnt := n } :=
  { h with cnt_below := hn, rates_whole := h.rates_whole.of_rates_eq rfl rfl }

/-- CYCLE at the start of a cycle commits a period that was in range and stages one that is (R90). -/
theorem RegInv.cycle {c : Config} {r : Regs} (h : RegInv c r) (hcnt : r.cnt = 0) : RegInv c (Regs.cycle c r) where
  pend_in_range := cycle_pend_inRange c r
  top_in_range := h.pend_in_range
  cmp_half := cycle_cmp_toNat c r
  cnt_below := by
    rw [cycle_cnt, cycle_top, hcnt]
    exact Nat.zero_lt_of_lt h.pend_in_range.two_le
  rates_whole := h.rates_whole.of_rates_eq rfl rfl
  ctrl_legal := h.ctrl_legal

theorem RegInv.tick {c : Config} {r : Regs} (h : RegInv c r) : RegInv c (r.tick c) := by
  have hzero : RegInv c { r with cnt := 0 } := h.count (Nat.zero_lt_of_lt h.top_in_range.two_le)
  obtain ⟨-, hr⟩ | ⟨-, hb, hr⟩ | ⟨-, -, -, hr⟩ | ⟨-, -, -, hr⟩ := tick_cases c r
  · rwa [hr]
  · rw [hr]
    exact h.count ((count_toNat hb).trans_lt hb)
  · rwa [hr]
  · rw [hr]
    exact hzero.cycle rfl

end Sys2Proof.Machine

namespace Sys2Proof

open Sys2Proof.Machine

/-- Settles O34: the registers meet R31 at reset, and the reset input is released. -/
theorem resetStateMeetsTheInvariant : Obligations.ResetStateMeetsTheInvariant :=
  ⟨RegInv.resetOn Config.machine, nofun⟩

/-- Settles O35: each of the writes a step can do keeps the registers' invariant, and in reset they are held. -/
theorem everyStepKeepsTheInvariant : Obligations.EveryStepKeepsTheInvariant := by
  intro s t hs h
  refine ⟨?_, fun ht => ?_⟩
  · exact step_keeps (RegInv.resetOn _) (fun _ => RegInv.tick) (fun _ => RegInv.start) (fun _ => RegInv.stop)
      (fun _ index hr => hr.select index) h hs.regs
  · rcases step_in_reset_cases h ht with hreset | ⟨hrst, hkept⟩
    · exact hreset
    · exact hkept.trans (hs.held_in_reset hrst)

/-- Settles O36: the three values are the legal ones, and every write of CTRL is legal. -/
theorem ctrlTakesThreeValues : Obligations.CtrlTakesThreeValues := by
  refine ⟨(Ctrl.legal_iff_bits _).mp (resetOn_ctrl_legal _), fun s t hs h => ?_⟩
  refine (Ctrl.legal_iff_bits _).mp (step_keeps (P := fun r => r.ctrl.Legal) (resetOn_ctrl_legal _)
    (fun _ => tick_ctrl_legal _) (fun r _ => start_ctrl_legal _ r) (fun _ => Ctrl.Legal.stop) (fun _ _ hr => hr) h ?_)
  exact (Ctrl.legal_iff_bits _).mpr hs

/-- Settles O37: SELECT writes both rates at once, reset clears both, and no other write touches them. -/
theorem ratePairIsNeverTorn : Obligations.RatePairIsNeverTorn := by
  intro s t hs h
  exact step_keeps (resetOn_ratePairWhole _) (fun _ => tick_ratePairWhole) (fun _ hr => hr.of_rates_eq rfl rfl)
    (fun _ hr => hr.of_rates_eq rfl rfl) (fun r index _ => select_ratePairWhole _ r index) h hs

/-- Settles O38: of the writes a step can do, only CYCLE, START and reset name TOP and CMP. -/
theorem periodChangesOnlyAtTheStartOfACycle : Obligations.PeriodChangesOnlyAtTheStartOfACycle := by
  intro s t h hchange
  obtain hr | ⟨hticks, hrst, hr⟩ | ⟨rest, he, hr⟩ | ⟨w, rest, he, hd, hrst, hrun, hr⟩ | hr | ⟨index, hr⟩ :=
    step_regs_cases h
  · simp [hr] at hchange
  · rcases tick_counts_or_armed_boundary Config.machine s.regs with hcount | ⟨hrun, hie, hb, hcycle⟩
    · rw [hr, hcount] at hchange
      simp at hchange
    · rw [hr, hcycle]
      exact ⟨rfl, .inl ⟨hticks, hrst, hrun, hie, hb, rfl, cycle_cmp_toNat _ _⟩⟩
  · rw [hr]
    exact ⟨rfl, .inr (.inr ⟨rest, he, rfl⟩)⟩
  · rw [hr]
    exact ⟨rfl, .inr (.inl ⟨w, rest, he, hd, hrst, hrun, Config.machine.nominalWord_toNat, start_cmp_toNat _ _⟩)⟩
  · simp [hr] at hchange
  · simp [hr] at hchange

/-- Settles O39: of the writes a step can do, only CYCLE and reset name an accumulator or PEND. -/
theorem onlyTheBoundaryTickInvokesTheEngine : Obligations.OnlyTheBoundaryTickInvokesTheEngine := by
  intro s t h hchange
  obtain hr | ⟨hticks, hrst, hr⟩ | ⟨rest, he, -⟩ | ⟨_, _, -, -, -, -, hr⟩ | hr | ⟨index, hr⟩ := step_regs_cases h
  · simp [hr] at hchange
  · rcases tick_counts_or_armed_boundary Config.machine s.regs with hcount | ⟨hrun, hie, hb, -⟩
    · rw [hr, hcount] at hchange
      simp at hchange
    · exact .inr ⟨hticks, hrst, hrun, hie, hb⟩
  · exact .inl ⟨rest, he⟩
  · simp [hr] at hchange
  · simp [hr] at hchange
  · simp [hr] at hchange

/-- Settles O41: each clause is the step of one event, a tick or a word being ignored while reset is asserted. -/
theorem resetEventAndHeldReset : Obligations.ResetEventAndHeldReset := by
  intro s rest
  refine ⟨fun he => ?_, fun e hrst hevent he => ?_, fun he => ?_⟩
  · exact ⟨_, step_of_rst s true rest he, rfl, rfl, rfl⟩
  · rcases hevent with rfl | ⟨w, rfl⟩
    · exact ⟨_, step_of_tick s rest he, if_pos hrst, hrst, rfl, rfl⟩
    · exact ⟨_, step_of_cmd_in_reset s w rest he hrst, rfl, hrst, rfl, rfl⟩
  · exact ⟨_, step_of_rst s false rest he, rfl, rfl, rfl⟩

end Sys2Proof
end

section
/-! What the engine's arithmetic gives in a valid configuration: the ranges of its values (40_dds_engine.md R97, R100,
70_reset_and_hazards.md R165), the symmetry of the blend (R94), silence (R103), and the mean frequency (R104). -/

namespace Sys2Proof.Machine

/-! ### Ranges -/

/-- No rate of a whole pair exceeds RATE_MAX (R12 (e), R56). -/
theorem RatePairWhole.le_rateMax {c : Config} {r : Regs} (h : RatePairWhole c r) :
    r.rateLo.toNat ≤ c.rateMax ∧ r.rateHi.toNat ≤ c.rateMax := by
  obtain ⟨m, hm⟩ := h
  cases m with
  | silent =>
    rw [hm.1, hm.2]
    exact ⟨Nat.zero_le _, Nat.zero_le _⟩
  | tone i =>
    rw [hm.1, hm.2, c.tone_rateLo_toNat, c.tone_rateHi_toNat]
    exact c.rate_le_rateMax i

/-- The headroom of R12 (e) bounds every product of the engine (R97). -/
theorem PeriodInRange.mul_rate_lt {c : Config} {period rate : Word} (h : PeriodInRange c period)
    (hrate : rate.toNat ≤ c.rateMax) : period.toNat * rate.toNat < 65536 :=
  (Nat.mul_le_mul h.2 hrate).trans_lt c.headroom

theorem phaseStep_le {period rate : Word} (h : period.toNat * rate.toNat < 65536) : phaseStep period rate ≤ 4095 := by
  rw [phaseStep]
  omega

/-! ### Symmetry (R94) -/

theorem equalize_neg (double : Bool) (sample : Int) : equalize double (-sample) = -equalize double sample := by
  cases double with
  | false => simp only [equalize, Bool.false_eq_true, if_false, Int.neg_tdiv, neg_add]
  | true => simp only [equalize, if_true, mul_neg]

theorem blend_neg (sLo eHi : Int) : blend (-sLo) (-eHi) = -blend sLo eHi := by
  rw [blend, ← neg_add, Int.neg_tdiv, blend]

/-! ### Silence (R103) -/

theorem doublesHigh_of_silent {r : Regs} (hHi : r.rateHi = 0) : r.doublesHigh = false := by
  simp [Regs.doublesHigh, hHi]

/-- In silence the next period deviates by what the frozen phases give, the high sample being taken 1.5 times. -/
theorem deviation_of_silent (c : Config) {r : Regs} (hHi : r.rateHi = 0) :
    r.deviation c = blend (sampleAt c r.accLo) (equalize false (sampleAt c r.accHi)) := by
  rw [Regs.deviation, doublesHigh_of_silent hHi]

theorem cycle_pend_of_silent (c : Config) {r : Regs} (hLo : r.rateLo = 0) (hHi : r.rateHi = 0) :
    (Regs.cycle c r).pend = stagedPeriod c (r.deviation c) := by
  rw [cycle_of_silent c r hLo hHi]

/-- With frozen phases the deviation is the same at every CYCLE. -/
theorem cycle_deviation_of_silent (c : Config) {r : Regs} (hLo : r.rateLo = 0) (hHi : r.rateHi = 0) :
    (Regs.cycle c r).deviation c = r.deviation c := by
  rw [cycle_of_silent c r hLo hHi]
  rfl

/-- In silence a CYCLE whose period is committed and staged already changes nothing. -/
theorem cycle_fixed_of_silent (c : Config) {r : Regs} (hLo : r.rateLo = 0) (hHi : r.rateHi = 0)
    (htop : r.top = r.pend) (hcmp : r.cmp = BitVec.ofNat 16 (r.pend.toNat / 2))
    (hpend : r.pend = stagedPeriod c (r.deviation c)) : Regs.cycle c r = r := by
  rw [cycle_of_silent c r hLo hHi, ← hpend, ← hcmp]
  exact congrArg (fun period => { r with top := period }) htop.symm

/-- In silence the period staged first is staged again (R103). -/
theorem cycle_cycle_pend_of_silent (c : Config) {r : Regs} (hLo : r.rateLo = 0) (hHi : r.rateHi = 0) :
    (Regs.cycle c (Regs.cycle c r)).pend = (Regs.cycle c r).pend := by
  rw [cycle_pend_of_silent c (r := Regs.cycle c r) hLo hHi, cycle_pend_of_silent c hLo hHi,
    cycle_deviation_of_silent c hLo hHi]

/-- In silence two CYCLEs settle the registers: a third changes nothing (R103). -/
theorem cycle_settled_of_silent (c : Config) {r : Regs} (hLo : r.rateLo = 0) (hHi : r.rateHi = 0) :
    Regs.cycle c (Regs.cycle c (Regs.cycle c r)) = Regs.cycle c (Regs.cycle c r) := by
  have hsame := cycle_cycle_pend_of_silent c hLo hHi
  have hagain := cycle_cycle_pend_of_silent c (r := Regs.cycle c r) hLo hHi
  refine cycle_fixed_of_silent c hLo hHi hsame.symm ?_ ?_
  · rw [hsame, cycle_cmp]
  · rw [← cycle_pend_of_silent c (r := Regs.cycle c (Regs.cycle c r)) hLo hHi, hagain]

/-! ### The mean frequency (R104) -/

/-- Dividing each product by 16 loses at most 15 sixteenths a term. -/
theorem sum_div_sixteen_bounds (rate : Nat) (l : List Nat) :
    16 * (l.map fun p => p * rate / 16).sum ≤ l.sum * rate ∧
    l.sum * rate ≤ 16 * (l.map fun p => p * rate / 16).sum + 15 * l.length := by
  induction l with
  | nil => simp
  | cons p l ih =>
    simp only [List.map_cons, List.sum_cons, List.length_cons, Nat.add_mul]
    omega

end Sys2Proof.Machine

namespace Sys2Proof

open Sys2Proof.Machine

/-- Settles O28: the staged period differs from NOMINAL by the deviation, and the next CYCLE commits it. -/
theorem stagedPeriodStaysWithinDMax : Obligations.StagedPeriodStaysWithinDMax := by
  intro r t
  refine ⟨?_, (cycle_pend_inRange _ r).two_le, rfl⟩
  rw [cycle_pend_toNat, add_sub_cancel_left]
  exact deviation_le_dMax _ _

/-- Settles O29: the products by the headroom of R12 (e), the samples by the amplitude. -/
theorem engineIntermediatesStayInRange : Obligations.EngineIntermediatesStayInRange := by
  intro r h a eHi
  obtain ⟨hrateLo, hrateHi⟩ := h.rates_whole.le_rateMax
  have hprodLo := h.pend_in_range.mul_rate_lt hrateLo
  have hprodHi := h.pend_in_range.mul_rate_lt hrateHi
  have hstepLo := phaseStep_le hprodLo
  have hstepHi := phaseStep_le hprodHi
  have haccLo := r.accLo.isLt
  have haccHi := r.accHi.isLt
  have hsampleLo := sampleAt_bounded Config.machine a.accLo
  have hsampleHi := sampleAt_bounded Config.machine a.accHi
  have heHi : eHi.natAbs ≤ 2 * Config.machine.sineAmp :=
    (equalize_bounded _ _).trans (Nat.mul_le_mul_left 2 hsampleHi)
  exact ⟨hprodLo, hprodHi, hstepLo, hstepHi, by omega, by omega, hsampleLo, hsampleHi, heHi, by omega,
    deviation_le_dMax _ _⟩

/-- Settles O30: truncation toward zero commutes with negation, in both divisions. -/
theorem modulationIsSymmetric : Obligations.ModulationIsSymmetric := by
  intro double sLo sHi
  refine ⟨equalize_neg double sHi, ?_⟩
  rw [equalize_neg, blend_neg]

/-- Settles O31: CYCLE keeps the phases, hence stages one period, and the second CYCLE commits it. -/
theorem silenceFreezesThePhasesAndSettles : Obligations.SilenceFreezesThePhasesAndSettles := by
  intro r hLo hHi t u sLo sHi
  have hsampleLo := sampleAt_bounded Config.machine r.accLo
  have hsampleHi := sampleAt_bounded Config.machine r.accHi
  have hdev := deviation_of_silent Config.machine hHi
  have hpend : (t.pend.toNat : Int) = Config.machine.nominal + r.deviation Config.machine := by
    rw [cycle_pend_toNat, ← cycle_deviation, cycle_deviation_of_silent _ hLo hHi]
  have hvalue : r.deviation Config.machine = (sLo + (sHi + sHi.tdiv 2)).tdiv 32 := by
    rw [hdev, sampleAt_eq, sampleAt_eq]
    rfl
  refine ⟨?_, ?_, hvalue ▸ hpend, ?_, cycle_cycle_pend_of_silent _ hLo hHi, rfl,
    cycle_settled_of_silent _ hLo hHi, fun hsLo hsHi => ?_⟩
  · simp [t, cycle_of_silent _ r hLo hHi]
  · simp [t, cycle_of_silent _ r hLo hHi]
  · rw [hpend, add_sub_cancel_left, hdev, blend_natAbs]
    have heq := equalize_false_natAbs (sampleAt Config.machine r.accHi)
    apply Nat.div_le_div_right
    omega
  · rw [hvalue, hsLo, hsHi] at hpend
    simpa using hpend

/-- Settles O33: the advances of each accumulator add up, and each step loses less than one to its division by 16. -/
theorem meanToneFrequencyIsTheRateLessTruncation : Obligations.MeanToneFrequencyIsTheRateLessTruncation := by
  intro r n at_ ticks phase
  have hphase (rate : Word) : 16 * phase rate ≤ ticks * rate.toNat ∧
      ticks * rate.toNat ≤ 16 * phase rate + 15 * n := by
    simpa [phase, ticks, List.map_map, Function.comp_def] using
      sum_div_sixteen_bounds rate.toNat ((List.range n).map fun k => (at_ k).pend.toNat)
  refine ⟨?_, ?_, hphase r.rateLo, hphase r.rateHi, fun k => ⟨?_, iterate_cycle_rates _ r k⟩⟩
  · exact toNat_of_advances (acc := fun k => (at_ k).accLo) (iterate_cycle_succ_accLo Config.machine r) n
  · exact toNat_of_advances (acc := fun k => (at_ k).accHi) (iterate_cycle_succ_accHi Config.machine r) n
  · simp only [at_, Function.iterate_succ_apply', cycle_top]

/-- Settles O46: under the invariant no period is below NOMINAL - D_MAX, and CMP is the half of one. -/
theorem deadlineConditionSuffices : Obligations.DeadlineConditionSuffices := by
  intro c mask hdeadline r h
  have htop := h.top_in_range.1
  have hpend := h.pend_in_range.1
  have hcmp := h.cmp_half
  rw [Config.MeetsDeadline] at hdeadline
  omega

end Sys2Proof
end

section
/-! Runs over carrier cycles and clocked edges (41_timer_tick.md R112 to R117, 42_carrier_ctl.md R126): a whole cycle is
TOP ticks, START begins one of NOMINAL ticks, and an edge is a tick and then a command. -/

namespace Sys2Proof.Machine

/-! ### A carrier cycle -/

/-- Below the boundary `k` ticks from CNT = 0 leave CNT = `k` and move nothing else (R111, R112). -/
theorem ticks_from_zero (c : Config) {r : Regs} (hrun : r.ctrl.run = true) (hcnt : r.cnt = 0) {k : Nat}
    (hk : k < r.top.toNat) : Regs.ticks c k r = { r with cnt := BitVec.ofNat 16 k } := by
  induction k with
  | zero =>
    rw [Regs.ticks, ← BitVec.ofNat_eq_ofNat, ← hcnt]
  | succ k ih =>
    have hcount : (BitVec.ofNat 16 k).toNat = k := count_toNat (Nat.lt_of_succ_lt hk)
    rw [ticks_succ, ih (Nat.lt_of_succ_lt hk), tick_of_below_boundary c (r := { r with cnt := BitVec.ofNat 16 k }) hrun]
    · rw [hcount]
    · rwa [hcount]

/-- The tick that completes TOP of them is the one boundary of the cycle (R112, R115). -/
theorem ticks_whole_cycle (c : Config) {r : Regs} (hrun : r.ctrl.run = true) (hie : r.ctrl.ie = true)
    (hcnt : r.cnt = 0) (htop : 0 < r.top.toNat) : Regs.ticks c r.top.toNat r = Regs.cycle c r := by
  obtain ⟨k, hk⟩ := Nat.exists_eq_add_one_of_ne_zero htop.ne'
  have hlt : k < r.top.toNat := hk ▸ Nat.lt_succ_self k
  have hboundary : r.top.toNat ≤ (BitVec.ofNat 16 k).toNat + 1 := by
    rw [count_toNat hlt]
    exact hk.le
  rw [hk, ticks_succ, ticks_from_zero c hrun hcnt hlt,
    tick_of_boundary c (r := { r with cnt := BitVec.ofNat 16 k }) hrun hboundary,
    boundary_of_armed c (r := { r with cnt := BitVec.ofNat 16 k }) hie, ← hcnt]

/-- The first ticks of a longer run of ticks. -/
theorem runsTo_first_ticks {k n : Nat} (hk : k ≤ n) (s : State) (rest : List Event) (hrst : s.rst = false)
    (he : s.events = List.replicate n .tick ++ rest) :
    ∃ t, RunsTo k s t ∧ t.regs = Regs.ticks Config.machine k s.regs := by
  have hsplit : s.events = List.replicate k .tick ++ (List.replicate (n - k) .tick ++ rest) := by
    rw [he, ← List.append_assoc, List.replicate_append_replicate, Nat.add_sub_cancel' hk]
  obtain ⟨t, hrun, hregs, -, -⟩ := runsTo_ticks k s _ hrst hsplit
  exact ⟨t, hrun, hregs⟩

/-! ### The cycle that START begins -/

/-- START's registers at CYCLE: the period START has loaded is committed over (R90, R123). -/
theorem cycle_start (c : Config) (r : Regs) : Regs.cycle c (r.start c) =
    Regs.cycle c { r with cnt := 0, ctrl := { run := true, ie := true, oe := true, cfg := true } } := rfl

theorem step_start {s : State} {rest : List Event} (hrst : s.rst = false) (hoff : s.regs.ctrl.run = false)
    (he : s.events = .cmd 0x1000 :: rest) :
    ∃ u, step s = .next u ∧ u.regs = s.regs.start Config.machine ∧ u.rst = false ∧ u.events = rest :=
  ⟨_, (step_of_decoded he hrst (i := .start) (by decide)).trans (exec_start_of_stopped hoff), rfl, hrst, rfl⟩

theorem start_ctrl_bits (c : Config) (r : Regs) : (r.start c).ctrl.bits = 0b1111#4 := by
  rw [start_ctrl]
  decide

/-- The nominal cycle that START begins, position by position (R112). -/
theorem runsTo_start_count {s : State} {rest : List Event} (hrst : s.rst = false) (hoff : s.regs.ctrl.run = false)
    (he : s.events = .cmd 0x1000 :: (List.replicate Config.machine.nominal .tick ++ rest)) {k : Nat}
    (hk : k < Config.machine.nominal) :
    ∃ t, RunsTo (k + 1) s t ∧ t.regs = { s.regs.start Config.machine with cnt := BitVec.ofNat 16 k } := by
  have hbelow : k < (s.regs.start Config.machine).top.toNat := by rwa [start_top, Config.nominalWord_toNat]
  obtain ⟨u, hs, hu, hurst, huevents⟩ := step_start hrst hoff he
  obtain ⟨t, hrun, hregs⟩ := runsTo_first_ticks hk.le u rest hurst huevents
  rw [hu, ticks_from_zero _ rfl rfl hbelow] at hregs
  exact ⟨t, Nat.add_comm 1 k ▸ (RunsTo.one hs).trans hrun, hregs⟩

/-- The first CYCLE after START comes with the tick that completes NOMINAL of them (R112). -/
theorem runsTo_start_cycle {s : State} {rest : List Event} (hrst : s.rst = false) (hoff : s.regs.ctrl.run = false)
    (he : s.events = .cmd 0x1000 :: (List.replicate Config.machine.nominal .tick ++ rest)) :
    ∃ t, RunsTo (Config.machine.nominal + 1) s t ∧
      t.regs = Regs.cycle Config.machine (s.regs.start Config.machine) ∧ t.events = rest := by
  have htop : (s.regs.start Config.machine).top.toNat = Config.machine.nominal := Config.machine.nominalWord_toNat
  have hpos : 0 < (s.regs.start Config.machine).top.toNat :=
    Nat.zero_lt_of_lt (nominalWord_inRange Config.machine).two_le
  obtain ⟨u, hs, hu, hurst, huevents⟩ := step_start hrst hoff he
  obtain ⟨t, hrun, hregs, -, hevents⟩ := runsTo_ticks Config.machine.nominal u rest hurst huevents
  rw [hu, ← htop, ticks_whole_cycle _ rfl rfl rfl hpos] at hregs
  exact ⟨t, Nat.add_comm 1 _ ▸ (RunsTo.one hs).trans hrun, hregs, hevents⟩

/-! ### A clocked edge (R117) -/

theorem run_one (s : State) : Host.Core.run core 1 s = step s := by
  rw [run_succ]
  cases step s <;> rfl

theorem events_of_idle_edge {p : EdgeInput} (hp : p.rst = false) (hidle : p.cmdValid = false) :
    p.events = [.rst false, .tick] := by
  simp [EdgeInput.events, hp, hidle]

theorem events_of_command_edge {p : EdgeInput} (hp : p.rst = false) (hvalid : p.cmdValid = true) :
    p.events = [.rst false, .tick, .cmd p.cmdWord] := by
  simp [EdgeInput.events, hp, hvalid]

/-- The first two events of an edge with reset low: the sampled level, which changes nothing, and the tick. -/
theorem runsTo_edge_tick {s : State} {rest : List Event} (hrst : s.rst = false)
    (he : s.events = .rst false :: .tick :: rest) :
    RunsTo 2 s { s with regs := s.regs.tick Config.machine, events := rest, resp := none } := by
  set sampled := State.driveReset Config.machine { s with events := .tick :: rest } false
  have hlevel : step s = .next sampled := step_of_rst s false _ he
  have htick : step sampled = .next (State.tick Config.machine { sampled with events := rest }) :=
    step_of_tick sampled rest rfl
  have hlast : State.tick Config.machine { sampled with events := rest } =
      { s with regs := s.regs.tick Config.machine, events := rest, resp := none } := by
    simp [sampled, State.tick, State.finish, State.driveReset, hrst]
  exact hlast ▸ (RunsTo.one hlevel).trans (RunsTo.one htick)

/-- The third event of an edge with a command: it runs on what the tick has left. -/
theorem run_edge_command {s : State} {w : Word} {rest : List Event} {i : Instr} (hrst : s.rst = false)
    (he : s.events = .rst false :: .tick :: .cmd w :: rest) (hd : decode w = .ok i) :
    Host.Core.run core 3 s =
      exec i { s with regs := s.regs.tick Config.machine, events := rest, resp := none } :=
  (run_add 2 1 s _ (runsTo_edge_tick hrst he)).trans ((run_one _).trans (step_of_decoded rfl hrst hd))

end Sys2Proof.Machine

namespace Sys2Proof

open Sys2Proof.Machine

/-- Settles O24: CNT is the number of ticks until the one that makes TOP of them, and the pin compares it with CMP. -/
theorem carrierCycleLastsTopTicks : Obligations.CarrierCycleLastsTopTicks := by
  intro s rest hrst hrun hie hoe hcnt htop hcmp he
  refine ⟨fun k hk => ?_, ?_⟩
  · obtain ⟨t, ht, hregs⟩ := runsTo_first_ticks hk.le s rest hrst he
    rw [ticks_from_zero _ hrun hcnt hk] at hregs
    refine ⟨t, ht, hregs, ?_⟩
    simp [State.out, Regs.out, hregs, hoe, hcmp, count_toNat hk]
  · obtain ⟨t, ht, hregs, -, hevents⟩ := runsTo_ticks _ s rest hrst he
    exact ⟨t, ht, hregs.trans (ticks_whole_cycle _ hrun hie hcnt htop), hevents⟩

/-- Settles O25: the run of the edge's events, the command's being the third. -/
theorem clockedEdgeIsTickThenCommand : Obligations.ClockedEdgeIsTickThenCommand := by
  intro s p rest hrst hp he
  refine ⟨fun hidle => ?_, fun i hvalid hd => ?_⟩
  · rw [events_of_idle_edge hp hidle] at he
    exact ⟨_, runsTo_edge_tick hrst he, rfl, rfl⟩
  · rw [events_of_command_edge hp hvalid] at he
    exact run_edge_command hrst he hd

/-- Settles O26: the tick of the edge runs CYCLE on the old rates and SELECT then writes the new pair alone, so the next
CYCLE is that of the selected registers. -/
theorem selectAtABoundaryEdgeIsSeenByTheNextCycle : Obligations.SelectAtABoundaryEdgeIsSeenByTheNextCycle := by
  intro s index rest hindex hrst hrun hie hb he
  have hedge := run_edge_command hrst he (decode_encode_select hindex)
  rw [exec_select, tick_of_boundary _ hrun hb, boundary_of_armed _ hie] at hedge
  refine ⟨_, hedge, rfl, ?_⟩
  intro old pair next sLo sHi eHi
  obtain ⟨hnextTop, -, hnextLo, hnextHi, hnextPend, -⟩ := cycleCommitsAdvancesAndStages (old.select pair)
  have haccLo := cycle_accLo_toNat Config.machine { s.regs with cnt := 0 }
  have haccHi := cycle_accHi_toNat Config.machine { s.regs with cnt := 0 }
  have hselected := select_modulatedBy Config.machine old index
  exact ⟨rfl, haccLo, haccHi, rfl, hselected, hnextTop, hnextLo, hnextHi, hnextPend⟩

/-- Settles O42: START leaves CNT = 0 and TOP = NOMINAL, so its cycle is NOMINAL ticks long. -/
theorem firstBoundaryIsNominalTicksAfterStart : Obligations.FirstBoundaryIsNominalTicksAfterStart := by
  intro s rest hrst hoff he
  refine ⟨fun k hk => ?_, ?_⟩
  · obtain ⟨t, ht, hregs⟩ := runsTo_start_count hrst hoff he hk
    rw [← Config.machine.nominalWord_toNat] at hk
    refine ⟨t, ht, ?_⟩
    rw [hregs]
    exact ⟨count_toNat hk, Config.machine.nominalWord_toNat, rfl, rfl, rfl⟩
  · obtain ⟨t, ht, hregs, -⟩ := runsTo_start_cycle hrst hoff he
    exact ⟨t, ht, hregs.trans (cycle_start _ _), congrArg Regs.top hregs⟩

/-- Settles O43: STOP and the wait keep PEND, the phases and the rates, and the cycle START begins ends in CYCLE. -/
theorem restartResumesTheStagedPeriod : Obligations.RestartResumesTheStagedPeriod := by
  intro s wait rest hrst he
  have hstop := step_of_decoded he hrst (i := .stop) (by decide)
  rw [exec_stop] at hstop
  set stopped := State.finish { s with events := _ } s.regs.stop
  have hheld : (stopped.tick Config.machine).regs = stopped.regs := by
    rw [tickState_regs, tick_of_stopped _ rfl, ite_self]
  obtain ⟨waited, hwait, hregs, hrst', hevents⟩ := runsTo_ticks_of_held wait stopped _ hheld rfl
  obtain ⟨t, hstart, ht, hrest⟩ := runsTo_start_cycle (hrst'.trans hrst) (congrArg (·.ctrl.run) hregs) hevents
  have hsteps : wait + Config.machine.nominal + 2 = 1 + (wait + (Config.machine.nominal + 1)) := by omega
  refine ⟨t, hsteps ▸ (RunsTo.one hstop).trans (hwait.trans hstart), ?_⟩
  rw [ht, hregs]
  have haccLo := cycle_accLo_toNat Config.machine (s.regs.stop.start Config.machine)
  have haccHi := cycle_accHi_toNat Config.machine (s.regs.stop.start Config.machine)
  have hctrl := start_ctrl_bits Config.machine s.regs.stop
  exact ⟨rfl, rfl, haccLo, haccHi, rfl, rfl, hctrl, hrest⟩

end Sys2Proof
end
